-- ==== Sys2Proof/Word.lean ====
section
/-! DEFINITION. The two word types of LEDCORE: a byte of a command line or of one colour channel, and a packed
24-bit colour (10_state.md R22, 20_memory.md R57, R60). -/

namespace Sys2Proof

/-- One byte of a command line (20_memory.md R60), and one 8-bit colour channel (10_state.md R22). -/
abbrev Byte := BitVec 8

/-- A packed colour: green in bits 23:16, red in bits 15:8, blue in bits 7:0 (20_memory.md R57). -/
abbrev Color := BitVec 24

end Sys2Proof
end

