-- ==== Sys2Proof/Config.lean ====
section
/-! DEFINITION. The parameters of LEDCORE (00_scope.md R7 to R13): the record `Cfg` the block samples at the
release of reset, the spec's reference values, and the three parameters the spec leaves open, which have no value
here at all. -/

namespace Sys2Proof

/-- One segment: an inclusive range of pixel indices (00_scope.md R11, 10_state.md R32). -/
structure Segment where
  start : Nat
  stop  : Nat
  deriving DecidableEq, Repr

/-- The parameters of 00_scope.md R7 to R12 as plain numbers, legal or not. `S` is `segs.length`. -/
structure Params where
  /-- `N`, the pixel count (R7). -/
  n : Nat
  /-- `SEG[0..S-1]`, the segment table (R11). -/
  segs : List Segment
  /-- `FADE_SPEED`, the largest change of a channel in one pass (R10). -/
  fadeSpeed : Nat
  /-- `T1H`, high time of a 1 bit in nanoseconds (R8). -/
  t1h : Nat
  /-- `T1L`, low time of a 1 bit (R8). -/
  t1l : Nat
  /-- `T0H`, high time of a 0 bit (R8). -/
  t0h : Nat
  /-- `T0L`, low time of a 0 bit (R8). -/
  t0l : Nat
  /-- `TRESET`, low time after the last pixel (R8). -/
  treset : Nat
  /-- `CLK_PERIOD_NS`, the clock period of the clocked realisation (R12). -/
  clkPeriodNs : Nat
  deriving DecidableEq, Repr

/-- `TRESET_MIN`, "the protocol's documented minimum of 50000" nanoseconds; a fixed number (00_scope.md R9). -/
def Config.tresetMin : Nat := 50000

/-- The legality conditions of 00_scope.md R7 to R12, gathered in 70_reset_and_hazards.md R255. -/
def Params.legal (q : Params) : Bool :=
  decide (1 ≤ q.n) &&
  q.segs.all (fun g => decide (g.start ≤ g.stop) && decide (g.stop < q.n)) &&
  decide (1 ≤ q.fadeSpeed) &&
  decide (1 ≤ q.t1h) && decide (1 ≤ q.t1l) && decide (1 ≤ q.t0h) && decide (1 ≤ q.t0l) &&
  decide (Config.tresetMin < q.treset) &&
  decide (1 ≤ q.clkPeriodNs)

/-- A legal configuration. An illegal one is refused as a configuration: "the model's configuration type carries
the constraints" (93_implementation_defined.md U5, U6; 10_state.md R41). -/
structure Cfg extends Params where
  legal : toParams.legal = true
  deriving DecidableEq, Repr

/-- The reference configuration of 00_scope.md section 4. Segment entries 1 to 3 are the spec's own choice
(DESIGN CHOICE, log 2). -/
def Cfg.reference : Cfg where
  n := 42
  segs := [⟨0, 41⟩, ⟨0, 13⟩, ⟨14, 27⟩, ⟨28, 41⟩]
  fadeSpeed := 3
  t1h := 700
  t1l := 600
  t0h := 350
  t0l := 800
  treset := 70000
  clkPeriodNs := 50
  legal := by decide

/-- `FADE_PASS_NS`, the time of one fade pass: OPEN (00_scope.md R12, D20). No body: a statement holds whatever it
is (log 11). -/
opaque Config.fadePassNs : Nat

/-- `STORE_CMD_NS`, the time of one store command: OPEN (00_scope.md R12, D34). No body (log 12). -/
opaque Config.storeCmdNs : Nat

/-- `TOL_NS`, the tolerance the sink guarantees: OPEN (00_scope.md R12, D24). No body (log 9). -/
opaque Config.tolNs : Nat

end Sys2Proof
end

