-- ==== Sys2Proof/Syntax.lean ====
section
/-! DEFINITION. The decoded command (30_encoding.md R99, R100): one constructor for each of the eight rows of
opcode_table.json. The three NOP rows are one outcome of the spec and three constructors here (log 7). -/

namespace Sys2Proof

/-- What one line decodes to (30_encoding.md R99). The operands are already mapped: a pixel index, a segment id. -/
inductive Instr where
  /-- SETPIXEL `i, c` (40_store_commands.md R120). -/
  | setPixel (i : Nat) (c : Color)
  /-- SETTARGET `i, c` (40_store_commands.md R121). -/
  | setTarget (i : Nat) (c : Color)
  /-- SETSEGTARGET `s, c` (40_store_commands.md R122). -/
  | setSegTarget (s : Nat) (c : Color)
  /-- DRAW; the colour on the line is ignored (41_draw_clear.md R140, R149). -/
  | draw
  /-- CLEAR; the colour on the line is ignored (41_draw_clear.md R146, R149). -/
  | clear
  /-- NOP: a well-formed line whose index is below the two codes (30_encoding.md R101). -/
  | nopBelow
  /-- NOP: a well-formed line whose index is beyond the last window (30_encoding.md R101). -/
  | nopBeyond
  /-- NOP: a malformed line (30_encoding.md R102). -/
  | nopMalformed
  deriving DecidableEq, Repr

/-- The error classes of 60_exceptions.md R221. They are labels: nothing in the machine records one. -/
inductive ErrClass where
  /-- `ERR_MALFORMED`: `Parse` failed. -/
  | malformed
  /-- `ERR_INDEX`: case 6 of the classification. -/
  | index
  /-- `ERR_TRANSPORT`: detected by nobody inside the block. -/
  | transport
  deriving DecidableEq, Repr

end Sys2Proof
end

