-- ==== Sys2Proof/WellFormed.lean ====
section
/-! DEFINITION. The operand ranges of a decoded command (30_encoding.md R99: `i : 0..N-1`, `s : 0..S-1`). -/

namespace Sys2Proof

/-- The operands lie in the ranges 30_encoding.md R99 gives them, under the configuration `cfg`. -/
def Instr.wf (cfg : Cfg) : Instr → Bool
  | .setPixel i _ => decide (i < cfg.n)
  | .setTarget i _ => decide (i < cfg.n)
  | .setSegTarget s _ => decide (s < cfg.segs.length)
  | .draw => true
  | .clear => true
  | .nopBelow => true
  | .nopBeyond => true
  | .nopMalformed => true

end Sys2Proof
end

