-- ==== Sys2Proof/Decode.lean ====
section
/-! DEFINITION. From the bytes of one line to a command and back (30_encoding.md): the packing of a colour, the
grammar and `Parse`, the classification, `Decode`, the canonical spelling as an encoder, and the streaming decoder
of R112. Decoding is total; a line `Parse` turns away is named `nopMalformed`. -/

namespace Sys2Proof

/-! ### The packed colour (R96) -/

/-- `pack(r, g, b)`: green in the top byte, red in the middle, blue in the low byte (R96). -/
def pack (r g b : Byte) : Color := g ++ r ++ b

/-- `G(c) = c[23:16]` (R96). -/
def chG (c : Color) : Byte := c.extractLsb' 16 8

/-- `R(c) = c[15:8]` (R96). -/
def chR (c : Color) : Byte := c.extractLsb' 8 8

/-- `B(c) = c[7:0]` (R96). -/
def chB (c : Color) : Byte := c.extractLsb' 0 8

/-! ### Literals (R84 to R88) -/

/-- The separator, `0x20` (R82). -/
def spaceByte : Byte := 0x20#8

/-- The hyphen-minus, `0x2D` (R82). -/
def hyphenByte : Byte := 0x2D#8

/-- The value of a decimal digit byte `0x30..0x39`, or nothing (R90, DIGIT). -/
def digitVal (c : Byte) : Option Nat :=
  if 0x30 ≤ c.toNat ∧ c.toNat ≤ 0x39 then some (c.toNat - 0x30) else none

/-- The value of a hexadecimal digit byte, in either case (R87; R90, HEXDIG). -/
def hexVal (c : Byte) : Option Nat :=
  if 0x30 ≤ c.toNat ∧ c.toNat ≤ 0x39 then some (c.toNat - 0x30)
  else if 0x41 ≤ c.toNat ∧ c.toNat ≤ 0x46 then some (c.toNat - 0x41 + 10)
  else if 0x61 ≤ c.toNat ∧ c.toNat ≤ 0x66 then some (c.toNat - 0x61 + 10)
  else none

/-- Reads digits, most significant first, onto the number read so far; nothing if a byte is no digit. -/
def digitsFrom (base : Nat) (val : Byte → Option Nat) (acc : Nat) : List Byte → Option Nat
  | [] => some acc
  | c :: cs =>
    match val c with
    | some d => digitsFrom base val (acc * base + d) cs
    | none => none

/-- `1*DIGIT` with its value (R85, R86): at least one digit, any number of them. -/
def decLit : List Byte → Option Nat
  | [] => none
  | c :: cs => digitsFrom 10 digitVal 0 (c :: cs)

/-- `1*HEXDIG` with its value, the digits after the prefix (R87). -/
def hexLit : List Byte → Option Nat
  | [] => none
  | c :: cs => digitsFrom 16 hexVal 0 (c :: cs)

/-- A channel literal: `0x` and hexadecimal digits, or decimal digits (R86, R87, R89). -/
def chanLit : List Byte → Option Nat
  | a :: x :: cs => if a = 0x30#8 ∧ x = 0x78#8 then hexLit cs else decLit (a :: x :: cs)
  | tok => decLit tok

/-- An index literal `["-"] 1*DIGIT` and its value, an integer of any size (R84, R85). -/
def indexLit : List Byte → Option Int
  | [] => none
  | c :: cs =>
    if c = hyphenByte then (decLit cs).map (fun m : Nat => -(m : Int))
    else (decLit (c :: cs)).map (fun m : Nat => (m : Int))

/-! ### Lines (R82, R83, R90, R91) -/

/-- The alphabet of a well-formed line (R82). -/
def inAlphabet (c : Byte) : Bool :=
  decide (c = spaceByte) || decide (c = hyphenByte) || decide (c = 0x78#8) || (hexVal c).isSome

/-- The fields of a line: it is split at EVERY space, so `k` spaces give `k + 1` fields, some possibly empty (R83). -/
def fields : List Byte → List (List Byte)
  | [] => [[]]
  | c :: cs =>
    if c = spaceByte then [] :: fields cs
    else
      match fields cs with
      | [] => [[c]]
      | f :: fs => (c :: f) :: fs

/-- Why `Parse` turns a line away. The spec treats all alike (60_exceptions.md R222); the names are the model's and
nothing keeps them. -/
inductive Malform where
  /-- Not exactly four fields (R83). -/
  | fieldCount
  /-- Token 0 is no index literal (R84). -/
  | indexLiteral
  /-- A channel token is neither literal form (R86, R87, R89). -/
  | channelLiteral
  /-- A channel value above 255 (R88). -/
  | channelRange
  deriving DecidableEq, Repr

/-- What `Parse` returns of a well-formed line: an integer index and three channels in `0..255` (R91). -/
structure Parsed where
  index : Int
  r : Byte
  g : Byte
  b : Byte
  deriving DecidableEq, Repr

/-- One channel token: its literal and then its range (R88, R91). -/
def channel (tok : List Byte) : Except Malform Byte :=
  match chanLit tok with
  | none => .error .channelLiteral
  | some v => if v ≤ 255 then .ok (BitVec.ofNat 8 v) else .error .channelRange

/-- `Parse` on the four tokens of a line (R91). -/
def parseTokens (ti tr tg tb : List Byte) : Except Malform Parsed :=
  match indexLit ti with
  | none => .error .indexLiteral
  | some x =>
    match channel tr, channel tg, channel tb with
    | .ok r, .ok g, .ok b => .ok ⟨x, r, g, b⟩
    | .error e, _, _ => .error e
    | _, .error e, _ => .error e
    | _, _, .error e => .error e

/-- `Parse(L)`, total on byte sequences; it reads nothing but the line (R91). -/
def parse (line : List Byte) : Except Malform Parsed :=
  match fields line with
  | [ti, tr, tg, tb] => parseTokens ti tr tg tb
  | _ => .error .fieldCount

/-! ### Classification and Decode (R97, R99) -/

/-- `Classify(index, c)`, the six cases in the source's order (R97); case 6 is split by where the index lies. -/
def classify (cfg : Cfg) (x : Int) (c : Color) : Instr :=
  if 0 ≤ x ∧ x < cfg.n then .setPixel x.toNat c
  else if (cfg.n : Int) ≤ x ∧ x < 2 * cfg.n then .setTarget (x - cfg.n).toNat c
  else if (2 * cfg.n : Int) ≤ x ∧ x < 2 * cfg.n + cfg.segs.length then .setSegTarget (x - 2 * cfg.n).toNat c
  else if x = -1 then .draw
  else if x = -2 then .clear
  else if x < 0 then .nopBelow
  else .nopBeyond

/-- `Decode(L)`: every byte sequence decodes to exactly one command (R99). -/
def decode (cfg : Cfg) (line : List Byte) : Instr :=
  match parse line with
  | .error _ => .nopMalformed
  | .ok q => classify cfg q.index (pack q.r q.g q.b)

/-- The error class of a command's line, if it has one (60_exceptions.md R221, R222, R223). -/
def errClass : Instr → Option ErrClass
  | .nopMalformed => some .malformed
  | .nopBelow => some .index
  | .nopBeyond => some .index
  | .setPixel _ _ => none
  | .setTarget _ _ => none
  | .setSegTarget _ _ => none
  | .draw => none
  | .clear => none

/-! ### The canonical spelling (R108) -/

/-- The byte of one decimal digit. -/
def digitByte (d : Nat) : Byte := BitVec.ofNat 8 (0x30 + d)

/-- Decimal digits, most significant first, no leading zeros; the first argument bounds their number. -/
def decDigits : Nat → Nat → List Byte
  | 0, m => [digitByte (m % 10)]
  | k + 1, m => if m < 10 then [digitByte m] else decDigits k (m / 10) ++ [digitByte (m % 10)]

/-- `dec(v)` of a natural number: its shortest decimal spelling (R108). -/
def decText (m : Nat) : List Byte := decDigits (m.log2 + 1) m

/-- `dec(v)` of an integer: `-` for negatives (R108). -/
def intText (x : Int) : List Byte := if x < 0 then hyphenByte :: decText x.natAbs else decText x.natAbs

/-- `dec(index) SP dec(r) SP dec(g) SP dec(b)` (R108). -/
def lineText (x : Int) (r g b : Byte) : List Byte :=
  intText x ++ spaceByte :: (decText r.toNat ++ spaceByte :: (decText g.toNat ++ spaceByte :: decText b.toNat))

/-- The canonical line of a command (R108). NOP's canonical line is `-3 0 0 0`; the two other NOP rows of the table
get the index `2N+S` and the table's example `5 1 2` (log 7). -/
def encode (cfg : Cfg) : Instr → List Byte
  | .setPixel i c => lineText i (chR c) (chG c) (chB c)
  | .setTarget i c => lineText ((i + cfg.n : Nat) : Int) (chR c) (chG c) (chB c)
  | .setSegTarget s c => lineText ((s + 2 * cfg.n : Nat) : Int) (chR c) (chG c) (chB c)
  | .draw => lineText (-1) 0 0 0
  | .clear => lineText (-2) 0 0 0
  | .nopBelow => lineText (-3) 0 0 0
  | .nopBeyond => lineText ((2 * cfg.n + cfg.segs.length : Nat) : Int) 0 0 0
  | .nopMalformed => [0x35#8, 0x20#8, 0x31#8, 0x20#8, 0x32#8]

/-! ### Hexadecimal spellings (R87) -/

/-- The byte of a hexadecimal digit, as R87 lists them: `0..9`, then `A..F` or `a..f`. -/
def hexByte (upper : Bool) (d : Fin 16) : Byte :=
  if d.val < 10 then BitVec.ofNat 8 (0x30 + d.val)
  else if upper then BitVec.ofNat 8 (0x41 + (d.val - 10))
  else BitVec.ofNat 8 (0x61 + (d.val - 10))

/-- A hexadecimal channel literal: `0x` and the digits, each in the case it names (R87). -/
def hexText (ds : List (Bool × Fin 16)) : List Byte :=
  0x30#8 :: 0x78#8 :: ds.map (fun d => hexByte d.1 d.2)

/-- The value of hexadecimal digits, most significant first (R87). -/
def hexValue (ds : List (Bool × Fin 16)) : Nat := ds.foldl (fun a d => a * 16 + d.2.val) 0

/-! ### The streaming decoder (R112) -/

/-- The scanner's position inside a token (R112, `st`). -/
inductive ScanSt where
  | start | neg | zero | dec | hexp | hex
  deriving DecidableEq, Repr

/-- The streaming decoder's scratch state (R112; 10_state.md R37). -/
structure Scan where
  tok : Nat
  st  : ScanSt
  neg : Bool
  acc : Nat
  v   : List Nat
  bad : Bool
  deriving DecidableEq, Repr

/-- The scratch at line start, which is also its reset and its idle value (R112; 10_state.md R37, R39). -/
def scanStart : Scan := ⟨0, .start, false, 0, [0, 0, 0, 0], false⟩

/-- The bound the accumulator saturates at: one above `max(255, 2N + S)` (R112 allows any bound above it). -/
def satBound (cfg : Cfg) : Nat := max 255 (2 * cfg.n + cfg.segs.length) + 1

/-- `sat` (R112). -/
def sat (cfg : Cfg) (x : Nat) : Nat := min x (satBound cfg)

/-- `EndToken` (R112). -/
def endToken (d : Scan) : Scan :=
  if d.tok = 3 then { d with bad := true }
  else { d with v := d.v.set d.tok d.acc, tok := d.tok + 1, st := .start }

/-- One byte in state START (R112). -/
def scanFirst (d : Scan) (c : Byte) : Scan :=
  if c = hyphenByte ∧ d.tok = 0 then { d with neg := true, st := .neg }
  else
    match digitVal c with
    | some k => { d with acc := k, st := if k = 0 ∧ d.tok ≠ 0 then .zero else .dec }
    | none => { d with bad := true }

/-- A digit that opens the run of decimal digits, or the line is malformed (R112, states NEG and ZERO). -/
def scanOpenDec (d : Scan) (c : Byte) : Scan :=
  match digitVal c with
  | some k => { d with acc := k, st := .dec }
  | none => { d with bad := true }

/-- A digit that continues a run in the given base, or the line is malformed (R112, states DEC and HEX). -/
def scanMore (cfg : Cfg) (base : Nat) (val : Byte → Option Nat) (d : Scan) (c : Byte) : Scan :=
  match val c with
  | some k => { d with acc := sat cfg (d.acc * base + k) }
  | none => { d with bad := true }

/-- One byte of a line (R112); nothing changes once the line is known to be bad. -/
def scanByte (cfg : Cfg) (d : Scan) (c : Byte) : Scan :=
  if d.bad then d
  else
    match d.st with
    | .start => scanFirst d c
    | .neg => scanOpenDec d c
    | .zero =>
      if c = 0x78#8 then { d with st := .hexp }
      else if c = spaceByte then endToken d
      else scanOpenDec d c
    | .dec => if c = spaceByte then endToken d else scanMore cfg 10 digitVal d c
    | .hexp =>
      match hexVal c with
      | some k => { d with acc := k, st := .hex }
      | none => { d with bad := true }
    | .hex => if c = spaceByte then endToken d else scanMore cfg 16 hexVal d c

/-- The bytes of a line, in order. -/
def scanBytes (cfg : Cfg) (d : Scan) (line : List Byte) : Scan := line.foldl (scanByte cfg) d

/-- The scanner stands at the end of a literal (R112, "st in ZERO, DEC, HEX"). -/
def scanEnded : ScanSt → Bool
  | .zero => true
  | .dec => true
  | .hex => true
  | .start => false
  | .neg => false
  | .hexp => false

/-- At line end: the well-formedness test, `v[3] <- acc`, the index with its sign, and the classification (R112). -/
def scanEnd (cfg : Cfg) (d : Scan) : Instr :=
  let v := d.v.set 3 d.acc
  let r := v.getD 1 0
  let g := v.getD 2 0
  let b := v.getD 3 0
  if !d.bad && decide (d.tok = 3) && scanEnded d.st && decide (r ≤ 255) && decide (g ≤ 255) && decide (b ≤ 255) then
    classify cfg (if d.neg then -((v.getD 0 0 : Nat) : Int) else ((v.getD 0 0 : Nat) : Int))
      (pack (BitVec.ofNat 8 r) (BitVec.ofNat 8 g) (BitVec.ofNat 8 b))
  else .nopMalformed

/-! ### The table's words -/

/-- The line a word of opcode_table.json stands for (30_encoding.md R113; log 14). A 32-bit word is the two's-complement
image of an index, the colour tokens being zeros; any other width holds the bytes of the line itself, the first byte
in the low bits. -/
def tableLine (nbits w : Nat) : List Byte :=
  if nbits = 32 then lineText (BitVec.ofNat 32 w).toInt 0 0 0
  else (List.range (nbits / 8)).map (fun k => BitVec.ofNat 8 (w >>> (8 * k)))

/-- The command this decoder reads from a word of the table, in the reference configuration. -/
def decodeTableWord (nbits w : Nat) : Option Instr := some (decode Cfg.reference (tableLine nbits w))

end Sys2Proof
end

