-- ==== Sys2Proof/Machine/State.lean ====
section
/-! DEFINITION. The state of LEDCORE as plain data (10_state.md), the two reasons a step could stop, and the state
after reset. `INVENTORY.md`, section State, lists every field with its rule. -/

namespace Sys2Proof.Machine

/-- The two pixel register files, as `space` of `MemRead` and `MemWrite` (00_scope.md R15, 20_memory.md R71). -/
inductive Space where
  | cur
  | tgt
  deriving DecidableEq, Repr

/-- The control sequencer `ctl` (10_state.md R20, R27). -/
inductive Ctl where
  | idle
  | fade
  | flush
  deriving DecidableEq, Repr

/-- Which blocking command runs, `op` (10_state.md R20, R27). -/
inductive Op where
  | none
  | draw
  | clear
  deriving DecidableEq, Repr

/-- The encoder phase `ph`: E_IDLE, E_HIGH, E_LOW, E_RESET (10_state.md R20, R28). -/
inductive Phase where
  | idle
  | high
  | low
  | reset
  deriving DecidableEq, Repr

/-- One instruction to the pulse sink, with its duration in nanoseconds (43_pulse_encoder.md R180). -/
inductive Sink where
  | holdHigh (d : Nat)
  | holdLow (d : Nat)
  deriving DecidableEq, Repr

/-- The input ports as they stand at one rising edge of `clk` (43_pulse_encoder.md R202), with the configuration
inputs (10_state.md R31); `none` where `Cfg` is built in (70_reset_and_hazards.md R251). -/
structure Pins where
  rst   : Bool
  valid : Bool
  last  : Bool
  data  : Byte
  cfg   : Option Cfg
  deriving DecidableEq, Repr

/-- What the outside does next (60_exceptions.md R236 to R238): it hands over one whole line, or the clock ticks with
the ports at given values. -/
inductive Input where
  | line (bytes : List Byte)
  | edge (pins : Pins)
  deriving DecidableEq, Repr

/-- The whole state. The first group is 10_state.md R20; the second is what R37 names as kept by a realisation; the
third is the sampled configuration; the fourth is the model's own. -/
structure State where
  /-- `CUR[0..N-1]` (R21). -/
  cur : List Color
  /-- `TGT[0..N-1]` (R21). -/
  tgt : List Color
  /-- "Needs fade" (R29). -/
  nf : Bool
  ctl : Ctl
  op : Op
  /-- The pixel being sent (R28). -/
  p : Nat
  /-- The bit of that pixel being sent (R28). -/
  b : Nat
  ph : Phase
  /-- The level of the one-wire line, high is true (R34). -/
  dout : Bool
  /-- The encoder's duration timer (R37; 43_pulse_encoder.md R205). -/
  t : Nat
  /-- Clock cycles the running fade pass has taken (R37; log 11). -/
  fadeCnt : Nat
  /-- The streaming decoder's scratch (R37; 30_encoding.md R112). -/
  dec : Scan
  /-- The configuration sampled at the release of reset (00_scope.md R13; log 1). -/
  cfg : Cfg
  /-- The last clock edge had `rst = 1` (70_reset_and_hazards.md R251; log 8). -/
  held : Bool
  /-- Clock cycles a store command still takes (43_pulse_encoder.md R207; log 12). -/
  storeWait : Nat
  /-- `W`, the sink instructions issued since reset, oldest first (00_scope.md R16). -/
  w : List Sink
  /-- The sink instructions issued before the last reset, oldest first (70_reset_and_hazards.md R252; log 3). -/
  wPast : List Sink
  /-- What the outside does next, oldest first (60_exceptions.md R237; log 5). -/
  input : List Input
  deriving DecidableEq, Repr

/-- No constructor: "The block raises no exception, no trap and no fault, ever" (60_exceptions.md R220). -/
inductive Fault where
  deriving DecidableEq, Repr

/-- Why an instruction could be turned away. -/
inductive Refusal where
  /-- Raised by an arm of `exec` whose instruction has no meaning yet; no arm does so. Safe: the machine stops. -/
  | notModelled (mnemonic : String)
  deriving DecidableEq, Repr

/-- The block just released from reset with the configuration `c` (10_state.md R38 to R41; 70_reset_and_hazards.md
R250). -/
def State.init (c : Cfg) : State where
  cur := List.replicate c.n 0
  tgt := List.replicate c.n 0
  nf := false
  ctl := .idle
  op := .none
  p := 0
  b := 23
  ph := .idle
  dout := false
  t := 0
  fadeCnt := 0
  dec := scanStart
  cfg := c
  held := false
  storeWait := 0
  w := []
  wPast := []
  input := []

/-- The machine right after reset, in the reference configuration (10_state.md R38 to R40). -/
def State.reset : State := State.init Cfg.reference

end Sys2Proof.Machine
end

