-- ==== Sys2Proof/Machine/Ops.lean ====
section
/-! DEFINITION. The named operations every meaning is written over: access to the pixel registers (20_memory.md R71,
R72), issuing a sink instruction (43_pulse_encoder.md R180), moving the sequencer and the encoder (10_state.md R27,
R28, R34). There is no operation of taking an exception and none of returning from one, because the block has neither
(60_exceptions.md R220, R231, R232). -/

namespace Sys2Proof.Machine

/-- The register file `sp`. -/
def bank (sp : Space) (s : State) : List Color :=
  match sp with
  | .cur => s.cur
  | .tgt => s.tgt

/-- `MemRead(space, i)`: one whole pixel register (20_memory.md R71). -/
def memRead (sp : Space) (i : Nat) (s : State) : Color := (bank sp s).getD i 0

/-- Puts a register file back. -/
def setBank (sp : Space) (l : List Color) (s : State) : State :=
  match sp with
  | .cur => { s with cur := l }
  | .tgt => { s with tgt := l }

/-- `MemWrite(space, i, v)`: one whole pixel register; an index outside the store changes nothing (20_memory.md R72). -/
def memWrite (sp : Space) (i : Nat) (v : Color) (s : State) : State := setBank sp ((bank sp s).set i v) s

/-- Writes one value to each of the registers listed, in their order. -/
def memWriteAll (sp : Space) (is : List Nat) (v : Color) (s : State) : State :=
  is.foldl (fun acc i => memWrite sp i v acc) s

/-- Issues one sink instruction: it joins the trace `W` (00_scope.md R16). -/
def issue (x : Sink) (s : State) : State := { s with w := s.w ++ [x] }

/-- Issues a list of sink instructions, in order. -/
def issueAll (xs : List Sink) (s : State) : State := { s with w := s.w ++ xs }

/-- `ctl <- c` (00_scope.md R15). -/
def setCtl (c : Ctl) (s : State) : State := { s with ctl := c }

/-- `op <- o`. -/
def setOp (o : Op) (s : State) : State := { s with op := o }

/-- Moves the encoder to `(ph, p, b)`; the line is high in exactly the phase E_HIGH (10_state.md R28, R34). -/
def encAt (ph : Phase) (p b : Nat) (s : State) : State :=
  { s with ph := ph, p := p, b := b, dout := decide (ph = .high) }

/-- The encoder at rest, its timer cleared (10_state.md R28, R37). -/
def encRest (s : State) : State := { encAt .idle 0 23 s with t := 0 }

/-- The sequencer waiting for a line: `(ctl, op) = (IDLE, NONE)` (10_state.md R27). -/
def seqIdle (s : State) : State := setOp .none (setCtl .idle s)

end Sys2Proof.Machine
end

