-- ==== Sys2Proof/Machine/Encoder.lean ====
section
/-! DEFINITION. The pulse encoder (43_pulse_encoder.md): EMITBIT, EMITPIXEL, FLUSH as lists of sink instructions, the
instruction that belongs to an encoder position, and the timer that stretches it over clock cycles. -/

namespace Sys2Proof.Machine

/-- The high time of a bit cell (R183). -/
def highDur (c : Cfg) (v : Bool) : Nat := if v then c.t1h else c.t0h

/-- The low time of a bit cell (R183). -/
def lowDur (c : Cfg) (v : Bool) : Nat := if v then c.t1l else c.t0l

/-- EMITBIT: one bit cell, high first (R183). -/
def emitBit (c : Cfg) (v : Bool) : List Sink := [.holdHigh (highDur c v), .holdLow (lowDur c v)]

/-- `23 downto 0`. -/
def bitOrder : List Nat := (List.range 24).reverse

/-- EMITPIXEL: the 24 bits of a packed colour, most significant first (R184). -/
def emitPixel (c : Cfg) (v : Color) : List Sink := bitOrder.flatMap (fun b => emitBit c (v.getLsbD b))

/-- `Frame(C)`: the instructions one FLUSH issues, pixels ascending, and the reset gap (R185, R186). -/
def frame (c : Cfg) (cur : List Color) : List Sink := cur.flatMap (emitPixel c) ++ [.holdLow c.treset]

/-- FLUSH, run to its end: the frame of the present `CUR` is issued and the encoder is at rest again (R185, R196). -/
def flush (s : State) : State := encRest (issueAll (frame s.cfg s.cur) s)

/-- `v` of R190: bit `b` of pixel `p`. -/
def curBit (s : State) : Bool := (memRead .cur s.p s).getLsbD s.b

/-- The sink instruction that belongs to the encoder's phase (R192 to R196); none in E_IDLE (R190). -/
def curInstr (s : State) : Option Sink :=
  match s.ph with
  | .idle => none
  | .high => some (.holdHigh (highDur s.cfg (curBit s)))
  | .low => some (.holdLow (lowDur s.cfg (curBit s)))
  | .reset => some (.holdLow s.cfg.treset)

/-- The duration in nanoseconds of a sink instruction. -/
def sinkDur : Sink → Nat
  | .holdHigh d => d
  | .holdLow d => d

/-- The line level of a sink instruction. -/
def sinkLevel : Sink → Bool
  | .holdHigh _ => true
  | .holdLow _ => false

/-- A sink instruction of the same level and another duration. -/
def sinkCut (d : Nat) : Sink → Sink
  | .holdHigh _ => .holdHigh d
  | .holdLow _ => .holdLow d

/-- `cycles(d) = max(1, ceil(d / CLK_PERIOD_NS))` (R203). -/
def cycles (c : Cfg) (d : Nat) : Nat := max 1 ((d + c.clkPeriodNs - 1) / c.clkPeriodNs)

/-- The clock cycles of the phase's instruction; 0 where there is none. -/
def curCycles (s : State) : Nat :=
  match curInstr s with
  | some x => cycles s.cfg (sinkDur x)
  | none => 0

/-- The timer at the first cycle of an instruction (R205); cleared outside a flush (60_exceptions.md R240). -/
def loadTimer (s : State) : State := { s with t := if s.ctl = .flush then curCycles s else 0 }

/-- The encoder starts a frame: `(ph, p, b) <- (E_HIGH, 0, 23)` as the draw loop enters FLUSH; nothing is issued by the
start itself (R191). -/
def startFlush (s : State) : State := loadTimer (encAt .high 0 23 (setCtl .flush s))

end Sys2Proof.Machine
end

