-- ==== Sys2Proof/Machine/Flags.lean ====
section
/-! DEFINITION. The one flag, `nf` (10_state.md R29, R30): how it is computed. -/

namespace Sys2Proof.Machine

/-- "Whether any pixel's current still differs from its target" (42_fade_engine.md R166, R167). -/
def needsFade (cur tgt : List Color) : Bool := (cur.zip tgt).any (fun ct => decide (ct.1 ≠ ct.2))

end Sys2Proof.Machine
end

