-- ==== Sys2Proof/Machine/Fade.lean ====
section
/-! DEFINITION. The fade engine (42_fade_engine.md): FADESTEP, FADEPIXEL, FADEPASS, and the distances its laws speak
of. -/

namespace Sys2Proof.Machine

/-- `clamp(v, lo, hi)` (00_scope.md R15). -/
def clamp (v lo hi : Int) : Int := if v < lo then lo else if hi < v then hi else v

/-- FADESTEP on integers (42_fade_engine.md R160). -/
def fadeStepInt (speed : Nat) (cur tgt : Int) : Int := cur + clamp (tgt - cur) (-(speed : Int)) speed

/-- FADESTEP on channel values; the result fits in 8 bits (42_fade_engine.md R160, R162). -/
def fadeStep (speed : Nat) (cur tgt : Byte) : Byte := BitVec.ofInt 8 (fadeStepInt speed cur.toNat tgt.toNat)

/-- FADEPIXEL: the three channels, independently (42_fade_engine.md R165). -/
def fadePixel (speed : Nat) (c t : Color) : Color :=
  pack (fadeStep speed (chR c) (chR t)) (fadeStep speed (chG c) (chG t)) (fadeStep speed (chB c) (chB t))

/-- The current colours after one pass (42_fade_engine.md R166, R167). -/
def fadeColors (speed : Nat) (cur tgt : List Color) : List Color := List.zipWith (fadePixel speed) cur tgt

/-- FADEPASS: new current colours, and `nf` tested on the NEW ones (42_fade_engine.md R166). The pass's progress
counter is cleared, since the pass is over. -/
def fadePass (s : State) : State :=
  let cur' := fadeColors s.cfg.fadeSpeed s.cur s.tgt
  { s with cur := cur', nf := needsFade cur' s.tgt, fadeCnt := 0 }

/-- The current colours after `k` passes toward fixed targets (41_draw_clear.md R152, `Ck`). -/
def fadeColorsN (speed : Nat) : Nat → List Color → List Color → List Color
  | 0, cur, _ => cur
  | k + 1, cur, tgt => fadeColorsN speed k (fadeColors speed cur tgt) tgt

/-- The distance of one channel from its target. -/
def chanDist (a b : Byte) : Nat := ((a.toNat : Int) - b.toNat).natAbs

/-- The largest channel distance of one pixel. -/
def pixelDist (c t : Color) : Nat := max (chanDist (chR c) (chR t)) (max (chanDist (chG c) (chG t)) (chanDist (chB c) (chB t)))

/-- `Dmax`: the largest channel distance over all pixels (42_fade_engine.md R168). -/
def storeDist : List Color → List Color → Nat
  | c :: cs, t :: ts => max (pixelDist c t) (storeDist cs ts)
  | _, _ => 0

/-- `P = max(1, ceil(Dmax / FADE_SPEED))`, the number of passes of a DRAW (41_draw_clear.md R142). -/
def passCount (speed : Nat) (cur tgt : List Color) : Nat := max 1 ((storeDist cur tgt + speed - 1) / speed)

end Sys2Proof.Machine
end

