-- ==== Sys2Proof/Machine/Operands.lean ====
section
/-! DEFINITION. The operand forms (40_store_commands.md R128): a pixel named directly or through the target window,
whose index `Classify` has already mapped, and a segment, translated by the one table the block has (20_memory.md
R54). -/

namespace Sys2Proof.Machine

/-- `Pix(s)` of one table entry, in ascending order: the inclusive range (20_memory.md R54). -/
def segmentPixels (g : Segment) : List Nat := List.range' g.start (g.stop + 1 - g.start)

/-- `Pix(s)` by segment id; an id outside the table names no pixel (20_memory.md R54, R72). -/
def segPixels (c : Cfg) (s : Nat) : List Nat :=
  match c.segs[s]? with
  | some g => segmentPixels g
  | none => []

/-- Every pixel, in ascending order. -/
def allPixels (c : Cfg) : List Nat := List.range c.n

end Sys2Proof.Machine
end

