-- ==== Sys2Proof/Machine/Blocking.lean ====
section
/-! DEFINITION. The blocking commands DRAW and CLEAR, each run to its end (41_draw_clear.md). -/

namespace Sys2Proof.Machine

/-- One draw pass: a fade pass and a flush (R140; 00_scope.md glossary). -/
def drawPass (s : State) : State := flush (setCtl .flush (fadePass (setCtl .fade s)))

/-- The do-while of R140, R141: the pass first, the flush after every pass, the test after the flush. The first
argument bounds the passes (log 15). -/
def drawLoop : Nat → State → State
  | 0, s => s
  | k + 1, s => if (drawPass s).nf then drawLoop k (drawPass s) else drawPass s

/-- No DRAW makes more passes: a channel is at most 255 away and moves by at least 1 (R142, R145). -/
def maxPasses : Nat := 255

/-- What DRAW does (R140). -/
def runDraw (s : State) : State := seqIdle (drawLoop maxPasses (setOp .draw s))

/-- DRAW (R140). -/
def execDraw (s : State) : Host.Outcome State Fault Refusal := .next (runDraw s)

/-- CLEAR's zeroing of both register files and of `nf` (R146). Its time is named in 70_reset_and_hazards.md R273 and has
no figure; no grain of the model gives it any (DESIGN CHOICE, log 19). -/
def clearStore (s : State) : State :=
  { memWriteAll .tgt (allPixels s.cfg) 0 (memWriteAll .cur (allPixels s.cfg) 0 s) with nf := false }

/-- What CLEAR does: zero everything, then exactly one flush (R146). -/
def runClear (s : State) : State := seqIdle (flush (setCtl .flush (clearStore (setOp .clear s))))

/-- CLEAR (R146). -/
def execClear (s : State) : Host.Outcome State Fault Refusal := .next (runClear s)

end Sys2Proof.Machine
end

