-- ==== Sys2Proof/Machine/Store.lean ====
section
/-! DEFINITION. The store commands SETPIXEL, SETTARGET, SETSEGTARGET and the three NOP rows (40_store_commands.md). None
of them writes `nf`, moves the sequencer or calls the sink (R125). -/

namespace Sys2Proof.Machine

/-- What SETPIXEL does: `CUR[i] <- c; TGT[i] <- c` (R120). -/
def setPixel (i : Nat) (c : Color) (s : State) : State := memWrite .tgt i c (memWrite .cur i c s)

/-- What SETTARGET does: `TGT[i] <- c` (R121). -/
def setTarget (i : Nat) (c : Color) (s : State) : State := memWrite .tgt i c s

/-- What SETSEGTARGET does: `TGT[i] <- c` for every `i` of the segment (R122). -/
def setSegTarget (g : Nat) (c : Color) (s : State) : State := memWriteAll .tgt (segPixels s.cfg g) c s

/-- SETPIXEL (R120). -/
def execSetPixel (i : Nat) (c : Color) (s : State) : Host.Outcome State Fault Refusal := .next (setPixel i c s)

/-- SETTARGET (R121). -/
def execSetTarget (i : Nat) (c : Color) (s : State) : Host.Outcome State Fault Refusal := .next (setTarget i c s)

/-- SETSEGTARGET (R122). -/
def execSetSegTarget (g : Nat) (c : Color) (s : State) : Host.Outcome State Fault Refusal := .next (setSegTarget g c s)

/-- NOP, an index below the codes (R123; 30_encoding.md R101). -/
def execNopBelow (s : State) : Host.Outcome State Fault Refusal := .next s

/-- NOP, an index beyond the last window (R123; 30_encoding.md R101). -/
def execNopBeyond (s : State) : Host.Outcome State Fault Refusal := .next s

/-- NOP, a malformed line (R123; 30_encoding.md R102). -/
def execNopMalformed (s : State) : Host.Outcome State Fault Refusal := .next s

end Sys2Proof.Machine
end

