-- ==== Sys2Proof/Machine/Sequencer.lean ====
section
/-! DEFINITION. The block at the grain of its own sequencer: the transitions of `(ctl, op)` (41_draw_clear.md R150) and
of the encoder position `(ph, p, b)` (43_pulse_encoder.md R190 to R196). It runs the same commands as `exec`, one fade
pass or one sink instruction at a time. -/

namespace Sys2Proof.Machine

/-- A line has decoded to `i` in `(IDLE, NONE)`: a store command or a NOP is applied, DRAW goes to `(FADE, DRAW)`, CLEAR
zeroes the store and goes to `(FLUSH, CLEAR)` (R150). That CLEAR's zeroing, whose time 70_reset_and_hazards.md R273
names without a figure, takes no step and no clock cycle of its own is a DESIGN CHOICE (log 19). -/
def beginCmd (i : Instr) (s : State) : State :=
  match i with
  | .setPixel i c => setPixel i c s
  | .setTarget i c => setTarget i c s
  | .setSegTarget g c => setSegTarget g c s
  | .draw => { setOp .draw (setCtl .fade s) with fadeCnt := 0 }
  | .clear => startFlush (clearStore (setOp .clear s))
  | .nopBelow => s
  | .nopBeyond => s
  | .nopMalformed => s

/-- The reset gap is done: a DRAW that still needs fading makes another pass, anything else goes idle (R150). -/
def gapDone (s : State) : State :=
  if s.op = .draw ∧ s.nf = true then { setCtl .fade s with fadeCnt := 0 } else seqIdle s

/-- Where the encoder goes after a bit cell's low time (R193, R194, R195). -/
def afterLow (s : State) : State :=
  if 0 < s.b then encAt .high s.p (s.b - 1) s
  else if s.p + 1 < s.cfg.n then encAt .high (s.p + 1) 23 s
  else encAt .reset s.p s.b s

/-- One step of the encoder, which issues exactly one sink instruction; in E_IDLE the requested flush starts (R190 to
R196). -/
def encStep (s : State) : State :=
  match s.ph with
  | .idle => startFlush s
  | .high => loadTimer (encAt .low s.p s.b (issue (.holdHigh (highDur s.cfg (curBit s))) s))
  | .low => loadTimer (afterLow (issue (.holdLow (lowDur s.cfg (curBit s))) s))
  | .reset => gapDone (encRest (issue (.holdLow s.cfg.treset) s))

/-- One step of the running command; the idle block has none (R150, R190). -/
def seqStep (s : State) : State :=
  match s.ctl with
  | .idle => s
  | .fade => startFlush (fadePass s)
  | .flush => encStep s

/-- `k` steps of the sequencer. -/
def seqRun : Nat → State → State
  | 0, s => s
  | k + 1, s => seqRun k (seqStep s)

end Sys2Proof.Machine
end

