-- ==== Sys2Proof/Machine/Clocked.lean ====
section
/-! DEFINITION. The clocked realisation (43_pulse_encoder.md section 5; 70_reset_and_hazards.md R251 to R253): what one
rising edge of `clk` does, given the ports, and the output `cmd_ready`. -/

namespace Sys2Proof.Machine

/-- Clock cycles of one fade pass: `FADE_PASS_NS` in whole cycles, at least one (log 11). -/
def fadeCycles (c : Cfg) : Nat := cycles c Config.fadePassNs

/-- Clock cycles for which a store command holds `cmd_ready` low (43_pulse_encoder.md R207; log 12). -/
def storeCycles (c : Cfg) : Nat := (Config.storeCmdNs + c.clkPeriodNs - 1) / c.clkPeriodNs

/-- The output port `cmd_ready`: 0 while `rst = 1`, whenever `ctl` is not IDLE, and while a store command is being
applied (43_pulse_encoder.md R202, R207; 70_reset_and_hazards.md R251). -/
def cmdReady (rst : Bool) (s : State) : Bool := !rst && decide (s.ctl = .idle) && decide (s.storeWait = 0)

/-- The three commands that only write the store (40_store_commands.md R125). -/
def isStoreCmd : Instr → Bool
  | .setPixel _ _ => true
  | .setTarget _ _ => true
  | .setSegTarget _ _ => true
  | .draw => false
  | .clear => false
  | .nopBelow => false
  | .nopBeyond => false
  | .nopMalformed => false

/-- The line has ended and decoded to `i`: it is applied, or it starts (43_pulse_encoder.md R207). That a store command
has its effect at this edge and holds `cmd_ready` low after it is a DESIGN CHOICE (log 12); so is that CLEAR takes no
cycle to zero the store, its frame starting at this edge (70_reset_and_hazards.md R273 gives no figure; log 19). -/
def applyLine (i : Instr) (s : State) : State :=
  if isStoreCmd i then { beginCmd i s with storeWait := storeCycles s.cfg } else beginCmd i s

/-- A byte is transferred; with `cmd_last = 1` it ends the line (43_pulse_encoder.md R207; 30_encoding.md R112). -/
def takeByte (data : Byte) (last : Bool) (s : State) : State :=
  if last then applyLine (scanEnd s.cfg (scanByte s.cfg s.dec data)) { s with dec := scanStart }
  else { s with dec := scanByte s.cfg s.dec data }

/-- The part of the running instruction that has been on the line when a reset cuts it: whole clock cycles, never
more than the instruction's own duration (70_reset_and_hazards.md R252; log 13). -/
def cutInstr (s : State) : List Sink :=
  match curInstr s with
  | some x => [sinkCut (min (sinkDur x) ((curCycles s + 1 - s.t) * s.cfg.clkPeriodNs)) x]
  | none => []

/-- An edge with `rst = 1`: the reset state, whatever the block was doing; what was issued stays issued, the last
instruction possibly shortened (70_reset_and_hazards.md R251, R252, R253; log 3). -/
def resetEdge (s : State) : State :=
  { State.init s.cfg with held := true, wPast := s.wPast ++ (s.w ++ cutInstr s), input := s.input }

/-- The release of reset: `Cfg` is sampled (70_reset_and_hazards.md R251; log 8). -/
def release (c : Option Cfg) (s : State) : State :=
  { State.init (c.getD s.cfg) with wPast := s.wPast, input := s.input }

/-- One edge with `rst = 0` of a block that is not held in reset. -/
def runEdge (pins : Pins) (s : State) : State :=
  match s.ctl with
  | .idle =>
    if 0 < s.storeWait then { s with storeWait := s.storeWait - 1 }
    else if pins.valid then takeByte pins.data pins.last s
    else s
  | .fade => if s.fadeCnt + 1 < fadeCycles s.cfg then { s with fadeCnt := s.fadeCnt + 1 } else seqStep s
  | .flush => if 1 < s.t then { s with t := s.t - 1 } else seqStep s

/-- One rising edge of `clk` (43_pulse_encoder.md R202 to R207; 70_reset_and_hazards.md R251). -/
def clockEdge (pins : Pins) (s : State) : State :=
  if pins.rst then resetEdge s
  else runEdge pins (if s.held then release pins.cfg s else s)

/-- The clock edges of a list of port values, in order. -/
def clockRun (ps : List Pins) (s : State) : State := ps.foldl (fun acc q => clockEdge q acc) s

end Sys2Proof.Machine
end

