-- ==== Sys2Proof/Machine/Dispatch.lean ====
section
/-! DEFINITION. The meaning of each decoded command, one arm per row of opcode_table.json. -/

namespace Sys2Proof.Machine

def exec (i : Instr) (s : State) : Host.Outcome State Fault Refusal :=
  match i with
  | .setPixel pix col => Sys2Proof.Machine.execSetPixel pix col s
  | .setTarget pix col => Sys2Proof.Machine.execSetTarget pix col s
  | .setSegTarget seg col => Sys2Proof.Machine.execSetSegTarget seg col s
  | .draw => Sys2Proof.Machine.execDraw s
  | .clear => Sys2Proof.Machine.execClear s
  | .nopBelow => Sys2Proof.Machine.execNopBelow s
  | .nopBeyond => Sys2Proof.Machine.execNopBeyond s
  | .nopMalformed => Sys2Proof.Machine.execNopMalformed s

end Sys2Proof.Machine
end

