-- ==== Sys2Proof/Machine/Fetch.lean ====
section
/-! DEFINITION. Where the next command comes from. The block fetches nothing (20_memory.md R69): the outside hands over
a line, or the clock ticks (60_exceptions.md R236 to R238; log 5, log 6). -/

namespace Sys2Proof.Machine

/-- The command a whole line decodes to. Where a line is partly received, these bytes complete it
(70_reset_and_hazards.md R265; log 5). -/
def lineInstr (s : State) (line : List Byte) : Instr :=
  if s.dec = scanStart then decode s.cfg line else scanEnd s.cfg (scanBytes s.cfg s.dec line)

/-- The block has taken a whole line: it is consumed once and is gone (20_memory.md R69). -/
def lineTaken (rest : List Input) (s : State) : State :=
  { s with input := rest, dec := scanStart, storeWait := 0 }

/-- A whole line is offered: it waits while a command runs (60_exceptions.md R230), it waits for the release of reset,
else it is decoded and its command is run to its end (20_memory.md R65). -/
def offerLine (line : List Byte) (rest : List Input) (s : State) : Host.Outcome State Fault Refusal :=
  if s.ctl ≠ .idle then .next (seqStep s)
  else if s.held then .next (release none s)
  else exec (lineInstr s line) (lineTaken rest s)

/-- One step: the next thing the outside does, or, with nothing pending, the running command goes on and the idle
block waits (60_exceptions.md R243). -/
def stepInput (s : State) : Host.Outcome State Fault Refusal :=
  match s.input with
  | .edge pins :: rest => .next (clockEdge pins { s with input := rest })
  | .line line :: rest => offerLine line rest s
  | [] => .next (seqStep s)

/-- The state in which the very next step takes `line`: the block is idle, out of reset, with no line partly received,
and the line is the first pending one (log 6). -/
def placeLine (line : List Byte) (s : State) : State :=
  { encRest (seqIdle s) with fadeCnt := 0, dec := scanStart, held := false, input := .line line :: s.input }

end Sys2Proof.Machine
end

