-- ==== Sys2Proof/Machine/Step.lean ====
section
/-! DEFINITION. One step of the machine, and the placing of a command for the next step. -/

namespace Sys2Proof.Machine

/-- One step (60_exceptions.md R220: it is total and never faults). -/
def step (s : State) : Host.Outcome State Fault Refusal := stepInput s

/-- The state whose next step runs the command a word of opcode_table.json stands for (log 6, log 14). -/
def State.withFetchWord (s : State) (nbits w : Nat) : State := placeLine (tableLine nbits w) s

end Sys2Proof.Machine
end

