-- ==== Sys2Proof/Machine/Timing.lean ====
section
/-! DEFINITION. What the durations written in `W` add up to, and the waveform (43_pulse_encoder.md section 4;
70_reset_and_hazards.md section 4). Nothing in the machine reads these. -/

namespace Sys2Proof.Machine

/-- The total duration of a list of sink instructions, in nanoseconds. -/
def totalNs : List Sink → Nat
  | [] => 0
  | x :: xs => sinkDur x + totalNs xs

/-- `Wave(W)`: neighbouring instructions of the same level merged into one interval (43_pulse_encoder.md R198). -/
def wave : List Sink → List (Bool × Nat)
  | [] => []
  | x :: xs =>
    match wave xs with
    | [] => [(sinkLevel x, sinkDur x)]
    | (l, d) :: rest => if l = sinkLevel x then (l, sinkDur x + d) :: rest else (sinkLevel x, sinkDur x) :: (l, d) :: rest

/-- The levels of `dout`, cycle by cycle, of a list of sink instructions (43_pulse_encoder.md R203, R204). -/
def cycleLevels (c : Cfg) (xs : List Sink) : List Bool :=
  xs.flatMap (fun x => List.replicate (cycles c (sinkDur x)) (sinkLevel x))

/-- The 1 bits of a packed colour. -/
def onesOf (v : Color) : Nat := (bitOrder.filter (fun b => v.getLsbD b)).length

/-- `ones`: the 1 bits of all current colours (43_pulse_encoder.md R189). -/
def ones (cur : List Color) : Nat := (cur.map onesOf).sum

/-- The length of a frame: `ones*(T1H+T1L) + zeros*(T0H+T0L) + TRESET` (70_reset_and_hazards.md R271). -/
def frameNs (c : Cfg) (cur : List Color) : Nat :=
  ones cur * (c.t1h + c.t1l) + (24 * cur.length - ones cur) * (c.t0h + c.t0l) + c.treset

/-- The frames of a DRAW of `k` passes: `Frame(C1) ++ ... ++ Frame(Ck)` (41_draw_clear.md R152). -/
def drawFrames (c : Cfg) : Nat → List Color → List Color → List Sink
  | 0, _, _ => []
  | k + 1, cur, tgt =>
    frame c (fadeColors c.fadeSpeed cur tgt) ++ drawFrames c k (fadeColors c.fadeSpeed cur tgt) tgt

/-- The length of a DRAW: its frames and `P * FADE_PASS_NS` (70_reset_and_hazards.md R272). -/
def drawNs (c : Cfg) (cur tgt : List Color) : Nat :=
  totalNs (drawFrames c (passCount c.fadeSpeed cur tgt) cur tgt) +
    passCount c.fadeSpeed cur tgt * Config.fadePassNs

/-- The realised duration of a sink instruction of `d` nanoseconds (43_pulse_encoder.md R203). -/
def realisedNs (c : Cfg) (d : Nat) : Nat := cycles c d * c.clkPeriodNs

/-- The realisation meets the sink's contract for a duration `d` (43_pulse_encoder.md R210). -/
def meetsTolerance (c : Cfg) (d : Nat) : Prop := realisedNs c d - d ≤ Config.tolNs

end Sys2Proof.Machine
end

