-- ==== Sys2Proof/Safety.lean ====
section
/-! DEFINITION. What every reachable state satisfies, in the terms claims use: the invariant of the block. -/

namespace Sys2Proof.Machine

/-- The pairs of `(ctl, op)` that occur; "No other pair occurs" (10_state.md R27). -/
def pairOk : Ctl → Op → Bool
  | .idle, .none => true
  | .fade, .draw => true
  | .flush, .draw => true
  | .flush, .clear => true
  | _, _ => false

/-- The invariant: the ranges of 10_state.md R20, the pairs of R27, the encoder position of R28, the line level of R34,
what is at its reset value while no command runs (R20, R37), and the reset state while held in reset. -/
structure State.Inv (s : State) : Prop where
  /-- `CUR` has `N` registers (R21). -/
  curLen : s.cur.length = s.cfg.n
  /-- `TGT` has `N` registers (R21). -/
  tgtLen : s.tgt.length = s.cfg.n
  /-- `p` in `0..N-1` (R20). -/
  pRange : s.p < s.cfg.n
  /-- `b` in `0..23` (R20). -/
  bRange : s.b ≤ 23
  /-- A legal pair (R27). -/
  pair : pairOk s.ctl s.op = true
  /-- `dout` is high in exactly the phase E_HIGH (R34). -/
  level : s.dout = decide (s.ph = .high)
  /-- The encoder works in exactly FLUSH (R28; 41_draw_clear.md R150). -/
  phase : s.ph = .idle ↔ s.ctl ≠ .flush
  /-- At rest the position is `(0, 23)` (R28). -/
  rest : s.ph = .idle → s.p = 0 ∧ s.b = 23
  /-- The reset gap follows the last bit of the last pixel (43_pulse_encoder.md R195). -/
  gap : s.ph = .reset → s.p + 1 = s.cfg.n ∧ s.b = 0
  /-- The timer of a running instruction (43_pulse_encoder.md R205). -/
  timerRuns : s.ctl = .flush → 1 ≤ s.t ∧ s.t ≤ curCycles s
  /-- The timer runs only during a flush (60_exceptions.md R240). -/
  timerRests : s.ctl ≠ .flush → s.t = 0
  /-- `nf` is at its reset value while no command runs (R20). -/
  nfIdle : s.ctl = .idle → s.nf = false
  /-- During a flush of a DRAW `nf` is the last pass's result (R29). -/
  nfDraw : s.ctl = .flush → s.op = .draw → s.nf = needsFade s.cur s.tgt
  /-- During the flush of a CLEAR the store is zero (41_draw_clear.md R146). -/
  clearing : s.ctl = .flush → s.op = .clear →
    s.nf = false ∧ s.cur = List.replicate s.cfg.n 0 ∧ s.tgt = List.replicate s.cfg.n 0
  /-- The fade counter counts only in FADE (R37). -/
  fadeRests : s.ctl ≠ .fade → s.fadeCnt = 0
  /-- No line is partly received while a command runs (R37). -/
  decRests : s.ctl ≠ .idle → s.dec = scanStart
  /-- The token counter's range and the four values (30_encoding.md R112). -/
  decRange : s.dec.tok ≤ 3 ∧ s.dec.v.length = 4
  /-- No store command is being applied while a blocking command runs. -/
  waitRests : s.ctl ≠ .idle → s.storeWait = 0
  /-- Held in reset, the block is in the reset state (70_reset_and_hazards.md R250, R251). -/
  heldReset : s.held = true →
    s = { State.init s.cfg with held := true, wPast := s.wPast, input := s.input }
  /-- Every duration told to the sink is at least 1 (43_pulse_encoder.md R180). -/
  durations : ∀ x ∈ s.wPast ++ s.w, 1 ≤ sinkDur x

/-- The store has its fixed size: `N` registers in each file (10_state.md R21). -/
def State.storeOk (s : State) : Prop := s.cur.length = s.cfg.n ∧ s.tgt.length = s.cfg.n

/-- The trace since power-on: what was issued before the last reset and what was issued since. -/
def State.told (s : State) : List Sink := s.wPast ++ s.w

/-- `Converged`: `CUR[i] = TGT[i]` for every `i` (00_scope.md glossary). -/
def State.converged (s : State) : Prop := s.cur = s.tgt

/-- The block waits for a line: no command runs, no line is partly received, reset is not held (10_state.md R27;
60_exceptions.md R235). -/
def State.waiting (s : State) : Prop := s.ctl = .idle ∧ s.dec = scanStart ∧ s.held = false

/-- A pending item is a whole line, not a clock edge. -/
def isLine : Input → Bool
  | .line _ => true
  | .edge _ => false

end Sys2Proof.Machine
end

