-- ==== Sys2Proof/Certificates/Slice0/Obligations.lean ====
section
/-! DEFINITION. The statements about LEDCORE for the provers. Each docstring names the rules of spec/ it formalises, or
says what it rests on. A decision D<n> is the spec's own choice (92_eei_decisions.md), so a statement that rests on one
is derived. -/

open Sys2Proof Sys2Proof.Machine

/-! ### Reset -/

/-- 10_state.md R38: after reset every register of both files is zero, and nothing survives a reset: what an edge with
`rst = 1` leaves (70_reset_and_hazards.md R251, decision D4) depends on the configuration alone, but for the model's two
records of the outside, `wPast` and `input` (log 3, log 5). -/
def Obligations.ResetZeroesEveryPixel : Prop :=
  (∀ sp i, i < State.reset.cfg.n → memRead sp i State.reset = 0) ∧
  (∀ (pins : Pins) (s : State) (sp : Space), pins.rst = true → bank sp (clockEdge pins s) = List.replicate s.cfg.n 0) ∧
  (∀ (p1 p2 : Pins) (s1 s2 : State), p1.rst = true → p2.rst = true → s1.cfg = s2.cfg →
    { clockEdge p1 s1 with wPast := [], input := [] } = { clockEdge p2 s2 with wPast := [], input := [] })

/-- The reset values of the registers the spec names itself (10_state.md R39, R40, decisions D18, D28, D29, D35). -/
def Obligations.ResetLeavesTheBlockIdle : Prop :=
  State.reset.nf = false ∧ State.reset.ctl = .idle ∧ State.reset.op = .none ∧ State.reset.p = 0 ∧ State.reset.b = 23 ∧
  State.reset.ph = .idle ∧ State.reset.dout = false ∧ State.reset.t = 0 ∧ State.reset.dec = scanStart ∧
  State.reset.w = []

/-- 70_reset_and_hazards.md R251, R252, R253 (decisions D4, D35; log 3, log 8, log 13 are the model's): an edge with
`rst = 1` overrides everything; what was issued stays issued, followed by at most one instruction of the level the line
had, no longer than the running one; no byte is taken while `rst = 1`; at the first edge with `rst = 0` the offered
configuration is sampled. -/
def Obligations.RstEdgeOverridesEverything : Prop :=
  (∀ (pins : Pins) (s : State), pins.rst = true →
    clockEdge pins s =
      { State.init s.cfg with held := true, wPast := s.told ++ cutInstr s, input := s.input } ∧
    cmdReady pins.rst s = false ∧ (cutInstr s).length ≤ 1 ∧
    ∀ x ∈ cutInstr s, ∃ y, curInstr s = some y ∧ sinkLevel x = sinkLevel y ∧ sinkDur x ≤ sinkDur y) ∧
  (∀ (pins : Pins) (s : State) (c : Cfg), pins.rst = false → pins.valid = false → pins.cfg = some c → s.held = true →
    clockEdge pins s = { State.init c with wPast := s.wPast, input := s.input })

/-! ### Lines and steps -/

/-- A step runs the decoded command: a waiting block with a line pending decodes the line and runs `exec`; around it the
line is consumed (20_memory.md R65, R69). The model's choice: what one step is, and that a whole line ends any wait of an
earlier store command (`storeWait := 0`) (log 5, log 12). -/
def Obligations.StepRunsTheDecodedLine : Prop :=
  ∀ (s : State) (line : List Byte) (rest : List Input), s.input = .line line :: rest → s.waiting →
    (decode s.cfg line).wf s.cfg = true ∧
    step s = exec (decode s.cfg line) { s with input := rest, dec := scanStart, storeWait := 0 }

/-- 41_draw_clear.md R144, 60_exceptions.md R230: while a command runs a pending line is neither taken nor dropped, the
step is one step of the running command, and no target changes. -/
def Obligations.LineWaitsWhileBusy : Prop :=
  ∀ (s : State) (line : List Byte) (rest : List Input), s.input = .line line :: rest → s.ctl ≠ .idle →
    ∃ t, step s = .next t ∧ t = seqStep s ∧ t.input = s.input ∧ t.tgt = s.tgt ∧ t.cfg = s.cfg

/-- 20_memory.md R65, 60_exceptions.md R232: a stream of lines is taken in order, one step a line, each command finished
before the next is examined; after any sequence of lines the block waits for the next. -/
def Obligations.EveryLineIsTakenInOrder : Prop :=
  ∀ s : State, s.Inv → s.waiting → (∀ x ∈ s.input, isLine x = true) →
    ∃ t, Sys2Proof.core.run s.input.length s = .next t ∧ t.input = [] ∧ t.waiting ∧ t.cfg = s.cfg ∧
      ∀ k ≤ s.input.length, ∃ u, Sys2Proof.core.run k s = .next u ∧ u.input = s.input.drop k ∧ u.waiting

/-- 60_exceptions.md R220: no fault exists, every line, well-formed or not, yields a next state, and so does every
step. -/
def Obligations.EveryStepYieldsANextState : Prop :=
  (Fault → False) ∧ (∀ s : State, ∃ t, step s = .next t) ∧
  (∀ (s : State) (line : List Byte), ∃ t, exec (decode s.cfg line) s = .next t) ∧
  (∀ (i : Instr) (s : State), ∃ t, exec i s = .next t)

/-- 60_exceptions.md R225: a dropped line leaves no trace. -/
def Obligations.DroppedLineLeavesNoTrace : Prop :=
  ∀ (s : State) (line : List Byte) (rest : List Input), s.waiting → s.storeWait = 0 →
    errClass (decode s.cfg line) ≠ none →
    step { s with input := .line line :: rest } = .next { s with input := rest }

/-! ### Decoding -/

/-- Lines of opcode_table.json and 30_encoding.md section 9, written out byte by byte. The last two conjuncts rest on the
model's choice of how a 32-bit word stands for a line: an index image followed by zero colour tokens (log 14). -/
def Obligations.TableExamplesDecode : Prop :=
  decode Cfg.reference [0x35#8, 0x20#8, 0x32#8, 0x35#8, 0x35#8, 0x20#8, 0x30#8, 0x20#8, 0x30#8] = .setPixel 5 0x00FF00 ∧
  decode Cfg.reference [0x35#8, 0x20#8, 0x30#8, 0x78#8, 0x66#8, 0x66#8, 0x20#8, 0x30#8, 0x78#8, 0x30#8, 0x30#8, 0x20#8, 0x30#8, 0x78#8, 0x30#8, 0x30#8] = .setPixel 5 0x00FF00 ∧
  decode Cfg.reference [0x34#8, 0x37#8, 0x20#8, 0x30#8, 0x20#8, 0x30#8, 0x20#8, 0x39#8] = .setTarget 5 0x000009 ∧
  decode Cfg.reference [0x38#8, 0x34#8, 0x20#8, 0x31#8, 0x30#8, 0x20#8, 0x32#8, 0x30#8, 0x20#8, 0x33#8, 0x30#8] = .setSegTarget 0 0x140A1E ∧
  decode Cfg.reference [0x2D#8, 0x31#8, 0x20#8, 0x30#8, 0x20#8, 0x30#8, 0x20#8, 0x30#8] = .draw ∧
  decode Cfg.reference [0x2D#8, 0x32#8, 0x20#8, 0x30#8, 0x20#8, 0x30#8, 0x20#8, 0x30#8] = .clear ∧
  decode Cfg.reference [0x2D#8, 0x33#8, 0x20#8, 0x30#8, 0x20#8, 0x30#8, 0x20#8, 0x30#8] = .nopBelow ∧
  decode Cfg.reference [0x38#8, 0x38#8, 0x20#8, 0x31#8, 0x20#8, 0x32#8, 0x20#8, 0x33#8] = .nopBeyond ∧
  decode Cfg.reference [0x35#8, 0x20#8, 0x31#8, 0x20#8, 0x32#8] = .nopMalformed ∧
  decodeTableWord 32 0xFFFFFFFF = some .draw ∧ decodeTableWord 32 0xFFFFFFFE = some .clear

/-- 30_encoding.md R108 (decision D30): the canonical line of every well-formed command decodes to it, with every
operand at every value, in every configuration. -/
def Obligations.DecodeOfEncodeIsIdentity : Prop :=
  ∀ (cfg : Cfg) (i : Instr), i.wf cfg = true → decode cfg (encode cfg i) = i

/-- 30_encoding.md R99: `Decode` is total, goes through `Parse` and `Classify`, and yields operands in range. -/
def Obligations.DecodeIsTotalAndInRange : Prop :=
  ∀ (cfg : Cfg) (line : List Byte),
    (∀ e, parse line = .error e → decode cfg line = .nopMalformed) ∧
    (∀ q, parse line = .ok q → decode cfg line = classify cfg q.index (pack q.r q.g q.b)) ∧
    (decode cfg line).wf cfg = true

/-- 30_encoding.md R97: the six cases of the classification. -/
def Obligations.ClassifyFollowsTheCommandMap : Prop :=
  ∀ (cfg : Cfg) (x : Int) (c : Color),
    (0 ≤ x → x < cfg.n → classify cfg x c = .setPixel x.toNat c) ∧
    ((cfg.n : Int) ≤ x → x < 2 * cfg.n → classify cfg x c = .setTarget (x - cfg.n).toNat c) ∧
    ((2 * cfg.n : Int) ≤ x → x < 2 * cfg.n + cfg.segs.length → classify cfg x c = .setSegTarget (x - 2 * cfg.n).toNat c) ∧
    (x = -1 → classify cfg x c = .draw) ∧
    (x = -2 → classify cfg x c = .clear) ∧
    (x ≤ -3 → classify cfg x c = .nopBelow) ∧
    ((2 * cfg.n + cfg.segs.length : Int) ≤ x → classify cfg x c = .nopBeyond)

/-- 30_encoding.md R85, R91, R108, 41_draw_clear.md R149 (decisions D11, D12, D30): the shortest spelling of ANY integer
index and any three channels is classified by its true value; no index wraps, and DRAW and CLEAR ignore the colour. -/
def Obligations.AnyIndexIsClassifiedByItsTrueValue : Prop :=
  ∀ (cfg : Cfg) (x : Int) (r g b : Byte), decode cfg (lineText x r g b) = classify cfg x (pack r g b)

/-- 30_encoding.md R84, R86, R87 (decisions D8, D9): leading zeros change neither the value nor the base. -/
def Obligations.LeadingZerosChangeNothing : Prop :=
  ∀ (k : Nat) (ds : List Byte) (v : Nat),
    (decLit ds = some v →
      chanLit (List.replicate k 0x30#8 ++ ds) = some v ∧
      indexLit (List.replicate k 0x30#8 ++ ds) = some (v : Int) ∧
      indexLit (hyphenByte :: (List.replicate k 0x30#8 ++ ds)) = some (-(v : Int))) ∧
    (hexLit ds = some v → chanLit (0x30#8 :: 0x78#8 :: (List.replicate k 0x30#8 ++ ds)) = some v)

/-- 30_encoding.md R82, R83 (decisions D6, D7, D27): a line with a byte outside the alphabet, with other than three
spaces, or with an empty field is a NOP. -/
def Obligations.OffGrammarLineIsDropped : Prop :=
  ∀ (cfg : Cfg) (line : List Byte),
    ((∃ c ∈ line, inAlphabet c = false) ∨ line.count spaceByte ≠ 3 ∨ [] ∈ fields line) →
    decode cfg line = .nopMalformed

/-- 30_encoding.md R88 (decision D10): a channel above 255 drops the line, whatever the index; it is neither truncated
nor saturated. -/
def Obligations.ChannelAbove255DropsTheLine : Prop :=
  ∀ (cfg : Cfg) (x : Int) (r g b : Nat), 255 < r ∨ 255 < g ∨ 255 < b →
    decode cfg (intText x ++ spaceByte :: (decText r ++ spaceByte :: (decText g ++ spaceByte :: decText b)))
      = .nopMalformed

/-- 30_encoding.md R112: the streaming decoder, with its saturating accumulator, equals `Decode` on every line. -/
def Obligations.StreamingDecoderEqualsDecode : Prop :=
  ∀ (cfg : Cfg) (line : List Byte), scanEnd cfg (scanBytes cfg scanStart line) = decode cfg line

/-- 30_encoding.md R96, 20_memory.md R57 (decision D13): `pack` and the three channels are inverse, and the packed value
is `g * 65536 + r * 256 + b`. -/
def Obligations.PackIsGreenRedBlue : Prop :=
  (∀ r g b : Byte, (pack r g b).toNat = g.toNat * 65536 + r.toNat * 256 + b.toNat ∧
    chR (pack r g b) = r ∧ chG (pack r g b) = g ∧ chB (pack r g b) = b) ∧
  (∀ c : Color, pack (chR c) (chG c) (chB c) = c)

/-! ### Store commands -/

/-- 40_store_commands.md R120: SETPIXEL completes on every pixel, writes both registers of it, and nothing else. -/
def Obligations.SetPixelWritesCurrentAndTarget : Prop :=
  ∀ (s : State) (i : Nat) (c : Color), s.storeOk → i < s.cfg.n →
    classify s.cfg i c = .setPixel i c ∧
    ∃ t, exec (.setPixel i c) s = .next t ∧
      (∀ sp j, memRead sp j t = if j = i then c else memRead sp j s) ∧
      t = { s with cur := t.cur, tgt := t.tgt } ∧ t.storeOk

/-- 40_store_commands.md R121: SETTARGET completes on every pixel, writes its target, and nothing else. -/
def Obligations.SetTargetWritesTargetOnly : Prop :=
  ∀ (s : State) (i : Nat) (c : Color), s.storeOk → i < s.cfg.n →
    classify s.cfg ((i : Int) + s.cfg.n) c = .setTarget i c ∧
    ∃ t, exec (.setTarget i c) s = .next t ∧
      (∀ j, memRead .tgt j t = if j = i then c else memRead .tgt j s) ∧
      t = { s with tgt := t.tgt } ∧ t.storeOk

/-- 40_store_commands.md R122: SETSEGTARGET completes on every segment, writes the target of every pixel in the
inclusive range, and nothing else. -/
def Obligations.SetSegTargetWritesTheWholeSegment : Prop :=
  ∀ (s : State) (g : Nat) (c : Color) (seg : Segment), s.storeOk → s.cfg.segs[g]? = some seg →
    classify s.cfg ((g : Int) + 2 * s.cfg.n) c = .setSegTarget g c ∧
    ∃ t, exec (.setSegTarget g c) s = .next t ∧
      (∀ j, memRead .tgt j t = if seg.start ≤ j ∧ j ≤ seg.stop then c else memRead .tgt j s) ∧
      t = { s with tgt := t.tgt } ∧ t.storeOk

/-- 40_store_commands.md R123: a malformed line and a line whose index is in no class both decode to a NOP, and every
NOP leaves the whole state as it was. -/
def Obligations.NopChangesNothing : Prop :=
  (∀ s : State, exec .nopBelow s = .next s ∧ exec .nopBeyond s = .next s ∧ exec .nopMalformed s = .next s) ∧
  (∀ (s : State) (line : List Byte) (e : Malform), parse line = .error e → exec (decode s.cfg line) s = .next s) ∧
  (∀ (s : State) (line : List Byte) (q : Parsed), parse line = .ok q →
    q.index ≤ -3 ∨ (2 * s.cfg.n + s.cfg.segs.length : Int) ≤ q.index → exec (decode s.cfg line) s = .next s)

/-- 40_store_commands.md R125: SETPIXEL, SETTARGET, SETSEGTARGET and NOP never block, start no fade pass, call no sink
and write no `nf`: in every state and with any operands they complete, and only the two register files can change. None
but SETPIXEL changes `CUR` (10_state.md R26 d). -/
def Obligations.StoreCommandsTouchOnlyTheStore : Prop :=
  ∀ (s : State) (i : Instr), i ≠ .draw → i ≠ .clear →
    ∃ t, exec i s = .next t ∧ t = { s with cur := t.cur, tgt := t.tgt } ∧
      ((∀ j c, i ≠ .setPixel j c) → t.cur = s.cur)

/-- 20_memory.md R72 (decision D21): an operand outside the store writes nothing. -/
def Obligations.OutOfRangeWriteIsIgnored : Prop :=
  ∀ (s : State) (i : Nat) (c : Color), s.storeOk →
    (s.cfg.n ≤ i → exec (.setPixel i c) s = .next s ∧ exec (.setTarget i c) s = .next s) ∧
    (s.cfg.segs.length ≤ i → exec (.setSegTarget i c) s = .next s)

/-- 40_store_commands.md R127: of two SETSEGTARGETs the later one wins where the segments overlap. -/
def Obligations.LaterSegmentWriteWins : Prop :=
  ∀ (s : State) (g1 g2 : Nat) (c1 c2 : Color) (a b : Segment), s.storeOk →
    s.cfg.segs[g1]? = some a → s.cfg.segs[g2]? = some b →
    ∃ t u, exec (.setSegTarget g1 c1) s = .next t ∧ exec (.setSegTarget g2 c2) t = .next u ∧
      ∀ j, memRead .tgt j u =
        if b.start ≤ j ∧ j ≤ b.stop then c2
        else if a.start ≤ j ∧ j ≤ a.stop then c1
        else memRead .tgt j s

/-- 20_memory.md R54: a segment stands for an inclusive range that is never empty and always inside the store. -/
def Obligations.SegmentRangeInsideTheStore : Prop :=
  ∀ (cfg : Cfg) (g : Nat) (seg : Segment), cfg.segs[g]? = some seg →
    segPixels cfg g ≠ [] ∧ ∀ i, i ∈ segPixels cfg g ↔ seg.start ≤ i ∧ i ≤ seg.stop ∧ i < cfg.n

/-! ### The fade engine -/

/-- 42_fade_engine.md R160: FADESTEP is the clamped step on integers; it lands when the target is within reach and
moves by exactly the speed when it is not. -/
def Obligations.FadeStepIsTheClampedStep : Prop :=
  ∀ (speed : Nat) (cur tgt : Byte), 1 ≤ speed →
    ((fadeStep speed cur tgt).toNat : Int) =
      cur.toNat + clamp ((tgt.toNat : Int) - cur.toNat) (-(speed : Int)) speed ∧
    (((tgt.toNat : Int) - cur.toNat).natAbs ≤ speed → fadeStep speed cur tgt = tgt) ∧
    ((speed : Int) < (tgt.toNat : Int) - cur.toNat → (fadeStep speed cur tgt).toNat = cur.toNat + speed) ∧
    ((tgt.toNat : Int) - cur.toNat < -(speed : Int) → (fadeStep speed cur tgt).toNat + speed = cur.toNat)

/-- 42_fade_engine.md R163: the step is bounded by the speed and has the sign of (target - current). -/
def Obligations.FadeStepIsBoundedAndSigned : Prop :=
  ∀ (speed : Nat) (cur tgt : Byte), 1 ≤ speed →
    let step : Int := ((fadeStep speed cur tgt).toNat : Int) - cur.toNat
    step.natAbs ≤ speed ∧ (0 < step ↔ cur.toNat < tgt.toNat) ∧ (step < 0 ↔ tgt.toNat < cur.toNat) ∧
      (step = 0 ↔ tgt = cur)

/-- 42_fade_engine.md R165: the three channels of a pixel are stepped independently. -/
def Obligations.FadePixelStepsChannelsIndependently : Prop :=
  ∀ (speed : Nat) (c t : Color),
    chG (fadePixel speed c t) = fadeStep speed (chG c) (chG t) ∧
    chR (fadePixel speed c t) = fadeStep speed (chR c) (chR t) ∧
    chB (fadePixel speed c t) = fadeStep speed (chB c) (chB t)

/-- 42_fade_engine.md R166 (decision D15), R167, R172: a pass steps every pixel from its own old registers, `nf` tells
whether a pixel still differs AFTER the step, targets are not written, nothing is sent. -/
def Obligations.FadePassStepsEveryPixel : Prop :=
  ∀ s : State, s.storeOk →
    (∀ i < s.cfg.n, memRead .cur i (fadePass s) =
      fadePixel s.cfg.fadeSpeed (memRead .cur i s) (memRead .tgt i s)) ∧
    ((fadePass s).nf = true ↔ ∃ i < s.cfg.n, memRead .cur i (fadePass s) ≠ memRead .tgt i s) ∧
    fadePass s = { s with cur := (fadePass s).cur, nf := (fadePass s).nf, fadeCnt := 0 } ∧ (fadePass s).storeOk

/-- 42_fade_engine.md R164: after `k` passes a channel has moved by `min(d0, k * FADE_SPEED)` toward its target. -/
def Obligations.ChannelConvergesLinearly : Prop :=
  ∀ (speed k : Nat) (cur tgt : Byte), 1 ≤ speed →
    ((Nat.repeat (fun x => fadeStep speed x tgt) k cur).toNat : Int) =
      cur.toNat + ((tgt.toNat : Int) - cur.toNat).sign * (min (chanDist cur tgt) (k * speed) : Nat)

/-- 42_fade_engine.md R168: pass `k` reports a mismatch exactly when `Dmax > k * FADE_SPEED`. -/
def Obligations.PassReportsMismatchByDistance : Prop :=
  ∀ (speed k : Nat) (cur tgt : List Color), 1 ≤ speed → cur.length = tgt.length →
    needsFade (fadeColorsN speed k cur tgt) tgt = decide (k * speed < storeDist cur tgt)

/-! ### DRAW and CLEAR -/

/-- 41_draw_clear.md R140: DRAW is the do-while: `k >= 1` draw passes, every one but the last reporting that a pixel
still needs fading, the last reporting none. -/
def Obligations.DrawRepeatsUntilAPassReportsNone : Prop :=
  ∀ s : State, s.storeOk →
    ∃ k, 1 ≤ k ∧ exec .draw s = .next (seqIdle (Nat.repeat drawPass k (setOp .draw s))) ∧
      (Nat.repeat drawPass k (setOp .draw s)).nf = false ∧
      ∀ j, 1 ≤ j → j < k → (Nat.repeat drawPass j (setOp .draw s)).nf = true

/-- 41_draw_clear.md R142, R152 (decision D15): DRAW completes with every pixel at its target, has sent exactly the
frames of the stores after each of its `P` passes, and leaves the block idle and all else unchanged. -/
def Obligations.DrawConvergesAndSendsEveryPass : Prop :=
  ∀ s : State, s.storeOk →
    exec .draw s = .next
      { s with cur := s.tgt, nf := false, ctl := .idle, op := .none, p := 0, b := 23, ph := .idle, dout := false,
               t := 0, fadeCnt := 0,
               w := s.w ++ drawFrames s.cfg (passCount s.cfg.fadeSpeed s.cur s.tgt) s.cur s.tgt }

/-- 41_draw_clear.md R142, R152: the size of a DRAW's trace, and the bound on its passes. -/
def Obligations.DrawTraceSize : Prop :=
  ∀ s : State, s.storeOk →
    ∃ t, exec .draw s = .next t ∧
      t.w.length = s.w.length + passCount s.cfg.fadeSpeed s.cur s.tgt * (48 * s.cfg.n + 1) ∧
      1 ≤ passCount s.cfg.fadeSpeed s.cur s.tgt ∧
      passCount s.cfg.fadeSpeed s.cur s.tgt ≤ max 1 ((255 + s.cfg.fadeSpeed - 1) / s.cfg.fadeSpeed)

/-- 42_fade_engine.md R173: on a converged store a pass reports no mismatch and leaves the store unchanged, and a DRAW
makes exactly one pass, which reports none, and leaves the store unchanged; it sends one frame of the present colours
(41_draw_clear.md R143). -/
def Obligations.DrawOnAConvergedStoreIsIdempotent : Prop :=
  ∀ s : State, s.storeOk → s.converged →
    (fadePass s).cur = s.cur ∧ (fadePass s).tgt = s.tgt ∧ (fadePass s).nf = false ∧
    ∃ t, exec .draw s = .next t ∧ t = seqIdle (drawPass (setOp .draw s)) ∧ (drawPass (setOp .draw s)).nf = false ∧
      t.cur = s.cur ∧ t.tgt = s.tgt ∧ t.w = s.w ++ frame s.cfg s.cur

/-- 41_draw_clear.md R146, R147, R148 (`nf` by decision D28): CLEAR completes from every state with every register
zero and exactly one frame of zero cells sent, regardless of the prior store, and leaves the block idle and all else
unchanged. -/
def Obligations.ClearZeroesAndSendsOneFrame : Prop :=
  ∀ s : State, s.storeOk →
    exec .clear s = .next
      { s with cur := List.replicate s.cfg.n 0, tgt := List.replicate s.cfg.n 0, nf := false,
               ctl := .idle, op := .none, p := 0, b := 23, ph := .idle, dout := false, t := 0,
               w := s.w ++ ((List.replicate (24 * s.cfg.n) [Sink.holdHigh s.cfg.t0h, Sink.holdLow s.cfg.t0l]).flatten
                 ++ [Sink.holdLow s.cfg.treset]) }

/-! ### The pulse encoder -/

/-- 43_pulse_encoder.md R183: the two bit cells. -/
def Obligations.EmitBitShapes : Prop :=
  ∀ c : Cfg, emitBit c true = [.holdHigh c.t1h, .holdLow c.t1l] ∧ emitBit c false = [.holdHigh c.t0h, .holdLow c.t0l]

/-- 43_pulse_encoder.md R184: 24 cells, 48 instructions, most significant bit first. -/
def Obligations.EmitPixelMostSignificantFirst : Prop :=
  ∀ (c : Cfg) (v : Color), (emitPixel c v).length = 48 ∧
    ∀ b < 24, (emitPixel c v)[2 * (23 - b)]? = some (.holdHigh (if v.getLsbD b then c.t1h else c.t0h)) ∧
      (emitPixel c v)[2 * (23 - b) + 1]? = some (.holdLow (if v.getLsbD b then c.t1l else c.t0l))

/-- 43_pulse_encoder.md R185: FLUSH sends every pixel's cells and then the reset gap, and writes nothing in the store. -/
def Obligations.FlushSendsTheSnapshotAndTheGap : Prop :=
  ∀ s : State,
    (flush s).w = s.w ++ s.cur.flatMap (emitPixel s.cfg) ++ [.holdLow s.cfg.treset] ∧
    Config.tresetMin < s.cfg.treset ∧ (flush s).cur = s.cur ∧ (flush s).tgt = s.tgt ∧ (flush s).nf = s.nf

/-- 43_pulse_encoder.md R212: the encoder reads the current colours only: neither the targets, nor `nf`, nor the segment
table change what a flush sends or which instruction is on the line, and neither a flush nor a step of the encoder
machine writes the store. -/
def Obligations.EncoderReadsOnlyCurrentColours : Prop :=
  (∀ (s : State) (l : List Color) (f : Bool),
    flush { s with tgt := l, nf := f } = { flush s with tgt := l, nf := f }) ∧
  (∀ (c1 c2 : Cfg) (cur : List Color), c1.t1h = c2.t1h → c1.t1l = c2.t1l → c1.t0h = c2.t0h → c1.t0l = c2.t0l →
    c1.treset = c2.treset → frame c1 cur = frame c2 cur) ∧
  (∀ (s : State) (c : Cfg) (l : List Color) (f : Bool), c.t1h = s.cfg.t1h → c.t1l = s.cfg.t1l → c.t0h = s.cfg.t0h →
    c.t0l = s.cfg.t0l → c.treset = s.cfg.treset → curInstr { s with cfg := c, tgt := l, nf := f } = curInstr s) ∧
  (∀ s : State, (flush s).cur = s.cur ∧ (flush s).tgt = s.tgt ∧ (encStep s).cur = s.cur ∧ (encStep s).tgt = s.tgt)

/-- 43_pulse_encoder.md R189, 20_memory.md R56: the size of a frame and each of its instructions by number. -/
def Obligations.FrameInstructionByNumber : Prop :=
  ∀ (c : Cfg) (cur : List Color), (frame c cur).length = 48 * cur.length + 1 ∧
    (frame c cur)[48 * cur.length]? = some (.holdLow c.treset) ∧
    ∀ k < 24 * cur.length,
      (frame c cur)[2 * k]? =
        some (.holdHigh (if (cur.getD (k / 24) 0).getLsbD (23 - k % 24) then c.t1h else c.t0h)) ∧
      (frame c cur)[2 * k + 1]? =
        some (.holdLow (if (cur.getD (k / 24) 0).getLsbD (23 - k % 24) then c.t1l else c.t0l))

/-- 43_pulse_encoder.md R189, 70_reset_and_hazards.md R271: the length of a frame. -/
def Obligations.FrameDuration : Prop :=
  ∀ (c : Cfg) (cur : List Color), totalNs (frame c cur) = frameNs c cur ∧ ones cur ≤ 24 * cur.length

/-- 43_pulse_encoder.md R198, R199: in the waveform of a frame every interval but the last is within the configured bit
times, and the last is the low of the last bit merged with the reset gap. -/
def Obligations.NoLongLowInsideAFrame : Prop :=
  ∀ (c : Cfg) (cur : List Color) (x : Color),
    (∀ iv ∈ wave ((cur ++ [x]).flatMap (emitPixel c)),
      (iv.1 = true → iv.2 ≤ max c.t0h c.t1h) ∧ (iv.1 = false → iv.2 ≤ max c.t0l c.t1l)) ∧
    (wave (frame c (cur ++ [x]))).getLast? = some (false, (if x.getLsbD 0 then c.t1l else c.t0l) + c.treset) ∧
    (wave (frame c (cur ++ [x]))).dropLast = (wave ((cur ++ [x]).flatMap (emitPixel c))).dropLast

/-- 43_pulse_encoder.md R191 to R196 (decision D29): the steps of the encoder machine, row by row of its table. -/
def Obligations.EncoderStepTable : Prop :=
  (∀ s : State, s.ctl = .flush → s.ph = .idle →
    seqStep s = loadTimer { s with ph := .high, p := 0, b := 23, dout := true }) ∧
  (∀ s : State, s.ctl = .flush → s.ph = .high →
    seqStep s = loadTimer { s with ph := .low, dout := false,
                                   w := s.w ++ [.holdHigh (if curBit s then s.cfg.t1h else s.cfg.t0h)] }) ∧
  (∀ s : State, s.ctl = .flush → s.ph = .low → 0 < s.b →
    seqStep s = loadTimer { s with ph := .high, b := s.b - 1, dout := true,
                                   w := s.w ++ [.holdLow (if curBit s then s.cfg.t1l else s.cfg.t0l)] }) ∧
  (∀ s : State, s.ctl = .flush → s.ph = .low → s.b = 0 → s.p + 1 < s.cfg.n →
    seqStep s = loadTimer { s with ph := .high, p := s.p + 1, b := 23, dout := true,
                                   w := s.w ++ [.holdLow (if curBit s then s.cfg.t1l else s.cfg.t0l)] }) ∧
  (∀ s : State, s.ctl = .flush → s.ph = .low → s.b = 0 → s.p + 1 = s.cfg.n →
    seqStep s = loadTimer { s with ph := .reset, dout := false,
                                   w := s.w ++ [.holdLow (if curBit s then s.cfg.t1l else s.cfg.t0l)] }) ∧
  (∀ s : State, s.ctl = .flush → s.ph = .reset →
    seqStep s = gapDone { s with ph := .idle, p := 0, b := 23, dout := false, t := 0,
                                 w := s.w ++ [.holdLow s.cfg.treset] })

/-- 43_pulse_encoder.md R197: from its start the encoder machine issues exactly `Frame(CUR)` in `48*N + 1` steps and then
reports the flush done. -/
def Obligations.EncoderMachineIssuesTheFrame : Prop :=
  ∀ s : State, s.storeOk → s.ctl = .flush → s.ph = .high → s.p = 0 → s.b = 23 →
    seqRun (48 * s.cfg.n + 1) s = gapDone (flush s) ∧
    ∀ k ≤ 48 * s.cfg.n, (seqRun k s).ctl = .flush ∧ (seqRun k s).w = s.w ++ (frame s.cfg s.cur).take k ∧
      (seqRun k s).cur = s.cur

/-- 41_draw_clear.md R150, 20_memory.md R63: the sequencer, step by step, ends in exactly the state `exec` gives, and is
busy at every step before. -/
def Obligations.SequencerRefinesExec : Prop :=
  ∀ (s : State) (i : Instr), s.Inv → s.waiting → i.wf s.cfg = true →
    ∃ k t, exec i s = .next t ∧ seqRun k (beginCmd i s) = t ∧ t.ctl = .idle ∧
      ∀ j < k, (seqRun j (beginCmd i s)).ctl ≠ .idle

/-- 41_draw_clear.md R145: a running command always ends, within a bounded number of steps. -/
def Obligations.BusyBlockBecomesIdle : Prop :=
  ∀ s : State, s.Inv → ∃ k ≤ 256 * (48 * s.cfg.n + 2), (seqRun k s).ctl = .idle

/-! ### Whole-machine rules -/

/-- The invariant of Safety.lean (10_state.md R20, R27, R28, R34, R37; 70_reset_and_hazards.md R250) holds after
reset, in every configuration. -/
def Obligations.InvariantHoldsAtReset : Prop :=
  State.reset = State.init Cfg.reference ∧ ∀ c : Cfg, (State.init c).Inv

/-- Every step, a line, a clock edge or a step of the running command, keeps the invariant. -/
def Obligations.EveryStepKeepsTheInvariant : Prop :=
  ∀ s t : State, s.Inv → step s = .next t → t.Inv

/-- 00_scope.md R16, 20_memory.md R66: what has been told to the sink is never taken back, and a line that is neither
DRAW nor CLEAR adds nothing. -/
def Obligations.TraceOnlyGrows : Prop :=
  (∀ s t : State, s.Inv → step s = .next t → s.told <+: t.told) ∧
  (∀ (s t : State) (line : List Byte) (rest : List Input), s.input = .line line :: rest → s.waiting →
    decode s.cfg line ≠ .draw → decode s.cfg line ≠ .clear → step s = .next t → t.told = s.told)

/-- 00_scope.md R13, 60_exceptions.md R238: no step changes the configuration, but for the edge that releases reset
with a configuration offered at the ports. -/
def Obligations.ConfigurationIsStatic : Prop :=
  ∀ s t : State, step s = .next t → t.cfg = s.cfg ∨
    ∃ pins rest, s.input = .edge pins :: rest ∧ pins.rst = false ∧ s.held = true ∧ pins.cfg = some t.cfg

/-! ### The clocked realisation -/

/-- 43_pulse_encoder.md R203, R204, R205: a sink instruction takes exactly `cycles(d)` clock edges, the line holds its
level throughout, and at the last edge the encoder makes its step. -/
def Obligations.InstructionTakesItsCycles : Prop :=
  ∀ (s : State) (ps : List Pins), s.Inv → s.ctl = .flush → s.t = curCycles s → ps.length = curCycles s →
    (∀ q ∈ ps, q.rst = false) →
    clockRun ps s = seqStep s ∧ ∀ k < ps.length, (clockRun (ps.take k) s).dout = s.dout

/-- 43_pulse_encoder.md R203, R210: rounding is upward, by less than one clock period. -/
def Obligations.CyclesRoundUp : Prop :=
  ∀ (c : Cfg) (d : Nat), 1 ≤ d → d ≤ realisedNs c d ∧ realisedNs c d < d + c.clkPeriodNs

/-- 43_pulse_encoder.md R207 (decisions D2, D19): bytes offered with `cmd_valid` to a ready block, with idle cycles
anywhere between them, are one line, which is decoded at the byte marked `cmd_last` and applied. The model's choice, in
`applyLine`: the effect is at the edge of that byte, a store command then holds `cmd_ready` low for its cycles (log 12),
and CLEAR's frame starts there, with no cycle for the zeroing (log 19). -/
def Obligations.PortBytesFormALine : Prop :=
  ∀ (s : State) (ps : List Pins) (q : Pins), s.waiting → s.storeWait = 0 →
    (∀ r ∈ ps, r.rst = false ∧ (r.valid = true → r.last = false)) → q.rst = false → q.valid = true → q.last = true →
    clockRun (ps ++ [q]) s = applyLine (decode s.cfg ((ps.filter (·.valid)).map (·.data) ++ [q.data])) s

/-- 43_pulse_encoder.md R207, 60_exceptions.md R230 (decision D19): a busy block is not ready and the bytes at its port
change nothing. -/
def Obligations.BusyBlockTakesNoByte : Prop :=
  ∀ (s : State) (q q' : Pins), s.ctl ≠ .idle → s.held = false → q.rst = false → q'.rst = false →
    cmdReady q.rst s = false ∧ clockEdge q s = clockEdge q' s

/-- 43_pulse_encoder.md R207 (decision D34; log 12 is the model's): a store command taken at the port holds `cmd_ready`
low for `STORE_CMD_NS` in whole cycles, whatever is offered meanwhile, and has its whole effect by then. -/
def Obligations.StoreCommandHoldsReadyLow : Prop :=
  ∀ (s : State) (i : Instr) (ps : List Pins), s.waiting → isStoreCmd i = true → ps.length = storeCycles s.cfg →
    (∀ q ∈ ps, q.rst = false) →
    clockRun ps (applyLine i s) = { beginCmd i s with storeWait := 0 } ∧
    ∀ k < ps.length, cmdReady false (clockRun (ps.take k) (applyLine i s)) = false

/-- 00_scope.md R12, 42_fade_engine.md R175 (decision D20; log 11 is the model's): a fade pass takes `FADE_PASS_NS` in
whole clock cycles, at least one, with the line low and nothing sent, and the frame of its result starts at the last. -/
def Obligations.FadePassTakesItsCycles : Prop :=
  ∀ (s : State) (ps : List Pins), s.Inv → s.ctl = .fade → s.fadeCnt = 0 → ps.length = fadeCycles s.cfg →
    (∀ q ∈ ps, q.rst = false) →
    clockRun ps s = startFlush (fadePass s) ∧
    ∀ k < ps.length, (clockRun (ps.take k) s).dout = false ∧ (clockRun (ps.take k) s).cur = s.cur ∧
      (clockRun (ps.take k) s).w = s.w

/-- 30_encoding.md R87, R84, R88 (decisions D8, D9, D10): `0x` followed by any hexadecimal digits, each in either case, is
a channel of their value and no index; a line spelled so decodes to `Classify` of its index and those channels, or is
dropped if one of them is above 255. -/
def Obligations.HexadecimalChannelReadsItsDigits : Prop :=
  (∀ ds : List (Bool × Fin 16), ds ≠ [] →
    chanLit (hexText ds) = some (hexValue ds) ∧ indexLit (hexText ds) = none) ∧
  (∀ (cfg : Cfg) (x : Int) (dr dg db : List (Bool × Fin 16)), dr ≠ [] → dg ≠ [] → db ≠ [] →
    decode cfg (intText x ++ spaceByte :: (hexText dr ++ spaceByte :: (hexText dg ++ spaceByte :: hexText db))) =
      if hexValue dr ≤ 255 ∧ hexValue dg ≤ 255 ∧ hexValue db ≤ 255 then
        classify cfg x (pack (BitVec.ofNat 8 (hexValue dr)) (BitVec.ofNat 8 (hexValue dg)) (BitVec.ofNat 8 (hexValue db)))
      else .nopMalformed)
end

