-- ==== Sys2Proof/Laws/Decode.lean ====
section
/-! SUPPORT. The laws of the line format (30_encoding.md): reading digits, the canonical decimal spelling, and splitting a
line at its spaces. -/

namespace Sys2Proof

/-- The byte of a decimal digit reads back as that digit. -/
theorem digitVal_digitByte (d : Nat) (h : d < 10) : digitVal (digitByte d) = some d := by
  interval_cases d <;> decide

/-- A byte is a decimal digit. -/
def isDigit (c : Byte) : Bool := (digitVal c).isSome

theorem isDigit_digitByte (d : Nat) (h : d < 10) : isDigit (digitByte d) = true := by
  rw [isDigit, digitVal_digitByte d h]; rfl

/-- A digit is neither the separator, nor the hyphen, nor the `x` of a prefix (R82). -/
theorem isDigit_ne (c : Byte) (h : isDigit c = true) : c ≠ spaceByte ∧ c ≠ hyphenByte ∧ c ≠ 0x78#8 := by
  refine ⟨?_, ?_, ?_⟩ <;> rintro rfl <;> revert h <;> decide

theorem inAlphabet_of_isDigit (c : Byte) (h : isDigit c = true) : inAlphabet c = true := by
  unfold isDigit digitVal at h
  unfold inAlphabet hexVal
  split at h <;> simp_all

/-- Reading digits in two parts. -/
theorem digitsFrom_append (base : Nat) (val : Byte → Option Nat) (acc : Nat) (xs ys : List Byte) :
    digitsFrom base val acc (xs ++ ys) = (digitsFrom base val acc xs).bind (fun a => digitsFrom base val a ys) := by
  induction xs generalizing acc with
  | nil => rfl
  | cons x xs ih =>
    simp only [List.cons_append, digitsFrom]
    cases val x with
    | none => rfl
    | some d => exact ih _

/-- The byte of a hexadecimal digit reads back as that digit, in either case (R87). -/
theorem hexVal_hexByte (u : Bool) (d : Fin 16) : hexVal (hexByte u d) = some d.val := by
  revert d; cases u <;> decide

/-- Neither the separator nor the hyphen is a hexadecimal digit (R82). -/
theorem hexByte_ne (u : Bool) (d : Fin 16) : hexByte u d ≠ spaceByte ∧ hexByte u d ≠ hyphenByte := by
  revert d; cases u <;> decide

/-- No separator stands inside a hexadecimal literal (R87). -/
theorem not_space_hexText (ds : List (Bool × Fin 16)) : ∀ c ∈ hexText ds, c ≠ spaceByte := by
  intro c hc
  simp only [hexText, List.mem_cons, List.mem_map] at hc
  rcases hc with rfl | rfl | ⟨d, -, rfl⟩
  · decide
  · decide
  · exact (hexByte_ne d.1 d.2).1

/-- A run of digits has a value exactly when every byte is a digit. -/
theorem digitsFrom_isSome (base : Nat) (val : Byte → Option Nat) (acc : Nat) (xs : List Byte) :
    (digitsFrom base val acc xs).isSome = xs.all (fun c => (val c).isSome) := by
  induction xs generalizing acc with
  | nil => rfl
  | cons x xs ih =>
    simp only [digitsFrom, List.all_cons]
    cases val x with
    | none => rfl
    | some d => simpa using ih _

theorem decLit_of_ne_nil (xs : List Byte) (h : xs ≠ []) : decLit xs = digitsFrom 10 digitVal 0 xs := by
  cases xs with
  | nil => exact absurd rfl h
  | cons x xs => rfl

theorem decDigits_ne_nil (k m : Nat) : decDigits k m ≠ [] := by
  cases k with
  | zero => simp [decDigits]
  | succ k => rw [decDigits]; split <;> simp

theorem isDigit_decDigits (k m : Nat) : ∀ c ∈ decDigits k m, isDigit c = true := by
  induction k generalizing m with
  | zero => simpa [decDigits] using isDigit_digitByte _ (Nat.mod_lt _ (by decide))
  | succ k ih =>
    rw [decDigits]
    split
    · simpa using isDigit_digitByte m ‹_›
    · intro c hc
      rcases List.mem_append.1 hc with hc | hc
      · exact ih _ c hc
      · rw [List.mem_singleton.1 hc]; exact isDigit_digitByte _ (Nat.mod_lt _ (by decide))

/-- The digits of a number read back as that number (R85). -/
theorem digitsFrom_decDigits (k m : Nat) (h : m < 10 ^ (k + 1)) :
    digitsFrom 10 digitVal 0 (decDigits k m) = some m := by
  induction k generalizing m with
  | zero =>
    have hm : m < 10 := by simpa using h
    rw [decDigits, Nat.mod_eq_of_lt hm, digitsFrom, digitVal_digitByte m hm]; simp [digitsFrom]
  | succ k ih =>
    rw [decDigits]
    split
    · simp [digitsFrom, digitVal_digitByte m ‹_›]
    · rw [digitsFrom_append, ih (m / 10) (by rw [Nat.pow_succ] at h; omega)]
      simp only [Option.bind_some, digitsFrom, digitVal_digitByte _ (Nat.mod_lt m (by decide))]
      congr 1; omega

theorem decText_ne_nil (m : Nat) : decText m ≠ [] := decDigits_ne_nil _ _

theorem isDigit_decText (m : Nat) : ∀ c ∈ decText m, isDigit c = true := isDigit_decDigits _ _

/-- The shortest decimal spelling reads back as its number (R85, R86, R108). -/
theorem decLit_decText (m : Nat) : decLit (decText m) = some m := by
  rw [decLit_of_ne_nil _ (decText_ne_nil m), decText]
  refine digitsFrom_decDigits _ _ ?_
  calc m < 2 ^ (m.log2 + 1) := Nat.lt_log2_self
    _ ≤ 10 ^ (m.log2 + 1) := Nat.pow_le_pow_left (by decide) _
    _ ≤ 10 ^ (m.log2 + 1 + 1) := Nat.pow_le_pow_right (by decide) (by omega)

/-- Digits alone are read in base ten: no prefix can be seen in them (R89, R90). -/
theorem chanLit_of_digits (tok : List Byte) (h : ∀ c ∈ tok, isDigit c = true) : chanLit tok = decLit tok := by
  match tok with
  | [] => rfl
  | [_] => rfl
  | a :: x :: cs =>
    rw [chanLit, if_neg]
    rintro ⟨-, hx⟩
    exact (isDigit_ne x (h x (by simp))).2.2 hx

theorem chanLit_decText (m : Nat) : chanLit (decText m) = some m := by
  rw [chanLit_of_digits _ (isDigit_decText m), decLit_decText]

/-- The shortest spelling of an integer reads back as that integer (R84, R85). -/
theorem indexLit_intText (x : Int) : indexLit (intText x) = some x := by
  unfold intText
  split
  · rw [indexLit, if_pos rfl, decLit_decText]
    show some (-(x.natAbs : Int)) = some x
    congr 1; omega
  · obtain ⟨c, cs, hc⟩ := List.exists_cons_of_ne_nil (decText_ne_nil x.natAbs)
    have hd := isDigit_decText x.natAbs c (by rw [hc]; simp)
    have hv := decLit_decText x.natAbs
    rw [hc] at hv ⊢
    rw [indexLit, if_neg (isDigit_ne c hd).2.1, hv]
    show some (x.natAbs : Int) = some x
    congr 1; omega

/-- No separator stands inside a spelling. -/
theorem not_space_decText (m : Nat) : ∀ c ∈ decText m, c ≠ spaceByte :=
  fun c hc => (isDigit_ne c (isDigit_decText m c hc)).1

theorem not_space_intText (x : Int) : ∀ c ∈ intText x, c ≠ spaceByte := by
  unfold intText
  split
  · intro c hc
    rcases List.mem_cons.1 hc with rfl | hc
    · decide
    · exact not_space_decText _ c hc
  · exact not_space_decText _

/-- A line always has a field (R83). -/
theorem fields_ne_nil (line : List Byte) : fields line ≠ [] := by
  cases line with
  | nil => simp [fields]
  | cons c cs => rw [fields]; split <;> [simp; (split <;> simp)]

/-- A token with no separator in it is one field (R83). -/
theorem fields_token (tok : List Byte) (h : ∀ c ∈ tok, c ≠ spaceByte) : fields tok = [tok] := by
  induction tok with
  | nil => rfl
  | cons c cs ih =>
    rw [fields, if_neg (h c (by simp)), ih (fun d hd => h d (by simp [hd]))]

/-- The first separator ends the first field (R83). -/
theorem fields_token_space (tok rest : List Byte) (h : ∀ c ∈ tok, c ≠ spaceByte) :
    fields (tok ++ spaceByte :: rest) = tok :: fields rest := by
  induction tok with
  | nil => simp [fields]
  | cons c cs ih =>
    rw [List.cons_append, fields, if_neg (h c (by simp)), ih (fun d hd => h d (by simp [hd]))]

/-- `k` separators give `k + 1` fields (R83). -/
theorem length_fields (line : List Byte) : (fields line).length = line.count spaceByte + 1 := by
  induction line with
  | nil => rfl
  | cons c cs ih =>
    rw [fields]
    split
    · rename_i h
      rw [List.length_cons, ih, h, List.count_cons_self]
    · rename_i h
      rw [List.count_cons_of_ne (fun e => h (by simpa using e))]
      rw [← ih]
      split
      · rename_i he; exact absurd he (fields_ne_nil cs)
      · rename_i he; rw [he]; rfl

/-- The bytes of a line are its separators and the bytes of its fields (R82, R83). -/
theorem mem_fields (line : List Byte) (c : Byte) (hc : c ∈ line) (hs : c ≠ spaceByte) : ∃ f ∈ fields line, c ∈ f := by
  induction line with
  | nil => simp at hc
  | cons d ds ih =>
    rw [fields]
    split
    · rename_i h
      rcases List.mem_cons.1 hc with rfl | hc
      · exact absurd h hs
      · obtain ⟨f, hf, hcf⟩ := ih hc
        exact ⟨f, by simp [hf], hcf⟩
    · split
      · rename_i he; exact absurd he (fields_ne_nil ds)
      · rename_i f fs he
        rcases List.mem_cons.1 hc with rfl | hc
        · exact ⟨c :: f, by simp, by simp⟩
        · obtain ⟨f', hf, hcf⟩ := ih hc
          rw [he] at hf
          rcases List.mem_cons.1 hf with rfl | hf
          · exact ⟨d :: f', by simp, by simp [hcf]⟩
          · exact ⟨f', by simp [hf], hcf⟩

end Sys2Proof
end

