-- ==== Sys2Proof/Laws/State.lean ====
section
/-! SUPPORT. For each record update of the model, what every field of the result is. All true by `rfl` (a write to a
register file by its two cases), so that no proof has to unfold an update. -/

namespace Sys2Proof.Machine

variable (s : State)

/-! ### issue -/

@[simp] theorem issue_cur (x : Sink) : (issue x s).cur = s.cur := rfl
@[simp] theorem issue_tgt (x : Sink) : (issue x s).tgt = s.tgt := rfl
@[simp] theorem issue_nf (x : Sink) : (issue x s).nf = s.nf := rfl
@[simp] theorem issue_ctl (x : Sink) : (issue x s).ctl = s.ctl := rfl
@[simp] theorem issue_op (x : Sink) : (issue x s).op = s.op := rfl
@[simp] theorem issue_p (x : Sink) : (issue x s).p = s.p := rfl
@[simp] theorem issue_b (x : Sink) : (issue x s).b = s.b := rfl
@[simp] theorem issue_ph (x : Sink) : (issue x s).ph = s.ph := rfl
@[simp] theorem issue_dout (x : Sink) : (issue x s).dout = s.dout := rfl
@[simp] theorem issue_t (x : Sink) : (issue x s).t = s.t := rfl
@[simp] theorem issue_fadeCnt (x : Sink) : (issue x s).fadeCnt = s.fadeCnt := rfl
@[simp] theorem issue_dec (x : Sink) : (issue x s).dec = s.dec := rfl
@[simp] theorem issue_cfg (x : Sink) : (issue x s).cfg = s.cfg := rfl
@[simp] theorem issue_held (x : Sink) : (issue x s).held = s.held := rfl
@[simp] theorem issue_storeWait (x : Sink) : (issue x s).storeWait = s.storeWait := rfl
@[simp] theorem issue_w (x : Sink) : (issue x s).w = s.w ++ [x] := rfl
@[simp] theorem issue_wPast (x : Sink) : (issue x s).wPast = s.wPast := rfl
@[simp] theorem issue_input (x : Sink) : (issue x s).input = s.input := rfl

/-! ### issueAll -/

@[simp] theorem issueAll_cur (xs : List Sink) : (issueAll xs s).cur = s.cur := rfl
@[simp] theorem issueAll_tgt (xs : List Sink) : (issueAll xs s).tgt = s.tgt := rfl
@[simp] theorem issueAll_nf (xs : List Sink) : (issueAll xs s).nf = s.nf := rfl
@[simp] theorem issueAll_ctl (xs : List Sink) : (issueAll xs s).ctl = s.ctl := rfl
@[simp] theorem issueAll_op (xs : List Sink) : (issueAll xs s).op = s.op := rfl
@[simp] theorem issueAll_p (xs : List Sink) : (issueAll xs s).p = s.p := rfl
@[simp] theorem issueAll_b (xs : List Sink) : (issueAll xs s).b = s.b := rfl
@[simp] theorem issueAll_ph (xs : List Sink) : (issueAll xs s).ph = s.ph := rfl
@[simp] theorem issueAll_dout (xs : List Sink) : (issueAll xs s).dout = s.dout := rfl
@[simp] theorem issueAll_t (xs : List Sink) : (issueAll xs s).t = s.t := rfl
@[simp] theorem issueAll_fadeCnt (xs : List Sink) : (issueAll xs s).fadeCnt = s.fadeCnt := rfl
@[simp] theorem issueAll_dec (xs : List Sink) : (issueAll xs s).dec = s.dec := rfl
@[simp] theorem issueAll_cfg (xs : List Sink) : (issueAll xs s).cfg = s.cfg := rfl
@[simp] theorem issueAll_held (xs : List Sink) : (issueAll xs s).held = s.held := rfl
@[simp] theorem issueAll_storeWait (xs : List Sink) : (issueAll xs s).storeWait = s.storeWait := rfl
@[simp] theorem issueAll_w (xs : List Sink) : (issueAll xs s).w = s.w ++ xs := rfl
@[simp] theorem issueAll_wPast (xs : List Sink) : (issueAll xs s).wPast = s.wPast := rfl
@[simp] theorem issueAll_input (xs : List Sink) : (issueAll xs s).input = s.input := rfl

/-! ### setCtl -/

@[simp] theorem setCtl_cur (c : Ctl) : (setCtl c s).cur = s.cur := rfl
@[simp] theorem setCtl_tgt (c : Ctl) : (setCtl c s).tgt = s.tgt := rfl
@[simp] theorem setCtl_nf (c : Ctl) : (setCtl c s).nf = s.nf := rfl
@[simp] theorem setCtl_ctl (c : Ctl) : (setCtl c s).ctl = c := rfl
@[simp] theorem setCtl_op (c : Ctl) : (setCtl c s).op = s.op := rfl
@[simp] theorem setCtl_p (c : Ctl) : (setCtl c s).p = s.p := rfl
@[simp] theorem setCtl_b (c : Ctl) : (setCtl c s).b = s.b := rfl
@[simp] theorem setCtl_ph (c : Ctl) : (setCtl c s).ph = s.ph := rfl
@[simp] theorem setCtl_dout (c : Ctl) : (setCtl c s).dout = s.dout := rfl
@[simp] theorem setCtl_t (c : Ctl) : (setCtl c s).t = s.t := rfl
@[simp] theorem setCtl_fadeCnt (c : Ctl) : (setCtl c s).fadeCnt = s.fadeCnt := rfl
@[simp] theorem setCtl_dec (c : Ctl) : (setCtl c s).dec = s.dec := rfl
@[simp] theorem setCtl_cfg (c : Ctl) : (setCtl c s).cfg = s.cfg := rfl
@[simp] theorem setCtl_held (c : Ctl) : (setCtl c s).held = s.held := rfl
@[simp] theorem setCtl_storeWait (c : Ctl) : (setCtl c s).storeWait = s.storeWait := rfl
@[simp] theorem setCtl_w (c : Ctl) : (setCtl c s).w = s.w := rfl
@[simp] theorem setCtl_wPast (c : Ctl) : (setCtl c s).wPast = s.wPast := rfl
@[simp] theorem setCtl_input (c : Ctl) : (setCtl c s).input = s.input := rfl

/-! ### setOp -/

@[simp] theorem setOp_cur (o : Op) : (setOp o s).cur = s.cur := rfl
@[simp] theorem setOp_tgt (o : Op) : (setOp o s).tgt = s.tgt := rfl
@[simp] theorem setOp_nf (o : Op) : (setOp o s).nf = s.nf := rfl
@[simp] theorem setOp_ctl (o : Op) : (setOp o s).ctl = s.ctl := rfl
@[simp] theorem setOp_op (o : Op) : (setOp o s).op = o := rfl
@[simp] theorem setOp_p (o : Op) : (setOp o s).p = s.p := rfl
@[simp] theorem setOp_b (o : Op) : (setOp o s).b = s.b := rfl
@[simp] theorem setOp_ph (o : Op) : (setOp o s).ph = s.ph := rfl
@[simp] theorem setOp_dout (o : Op) : (setOp o s).dout = s.dout := rfl
@[simp] theorem setOp_t (o : Op) : (setOp o s).t = s.t := rfl
@[simp] theorem setOp_fadeCnt (o : Op) : (setOp o s).fadeCnt = s.fadeCnt := rfl
@[simp] theorem setOp_dec (o : Op) : (setOp o s).dec = s.dec := rfl
@[simp] theorem setOp_cfg (o : Op) : (setOp o s).cfg = s.cfg := rfl
@[simp] theorem setOp_held (o : Op) : (setOp o s).held = s.held := rfl
@[simp] theorem setOp_storeWait (o : Op) : (setOp o s).storeWait = s.storeWait := rfl
@[simp] theorem setOp_w (o : Op) : (setOp o s).w = s.w := rfl
@[simp] theorem setOp_wPast (o : Op) : (setOp o s).wPast = s.wPast := rfl
@[simp] theorem setOp_input (o : Op) : (setOp o s).input = s.input := rfl

/-! ### encAt -/

@[simp] theorem encAt_cur (ph : Phase) (p b : Nat) : (encAt ph p b s).cur = s.cur := rfl
@[simp] theorem encAt_tgt (ph : Phase) (p b : Nat) : (encAt ph p b s).tgt = s.tgt := rfl
@[simp] theorem encAt_nf (ph : Phase) (p b : Nat) : (encAt ph p b s).nf = s.nf := rfl
@[simp] theorem encAt_ctl (ph : Phase) (p b : Nat) : (encAt ph p b s).ctl = s.ctl := rfl
@[simp] theorem encAt_op (ph : Phase) (p b : Nat) : (encAt ph p b s).op = s.op := rfl
@[simp] theorem encAt_p (ph : Phase) (p b : Nat) : (encAt ph p b s).p = p := rfl
@[simp] theorem encAt_b (ph : Phase) (p b : Nat) : (encAt ph p b s).b = b := rfl
@[simp] theorem encAt_ph (ph : Phase) (p b : Nat) : (encAt ph p b s).ph = ph := rfl
@[simp] theorem encAt_dout (ph : Phase) (p b : Nat) : (encAt ph p b s).dout = decide (ph = .high) := rfl
@[simp] theorem encAt_t (ph : Phase) (p b : Nat) : (encAt ph p b s).t = s.t := rfl
@[simp] theorem encAt_fadeCnt (ph : Phase) (p b : Nat) : (encAt ph p b s).fadeCnt = s.fadeCnt := rfl
@[simp] theorem encAt_dec (ph : Phase) (p b : Nat) : (encAt ph p b s).dec = s.dec := rfl
@[simp] theorem encAt_cfg (ph : Phase) (p b : Nat) : (encAt ph p b s).cfg = s.cfg := rfl
@[simp] theorem encAt_held (ph : Phase) (p b : Nat) : (encAt ph p b s).held = s.held := rfl
@[simp] theorem encAt_storeWait (ph : Phase) (p b : Nat) : (encAt ph p b s).storeWait = s.storeWait := rfl
@[simp] theorem encAt_w (ph : Phase) (p b : Nat) : (encAt ph p b s).w = s.w := rfl
@[simp] theorem encAt_wPast (ph : Phase) (p b : Nat) : (encAt ph p b s).wPast = s.wPast := rfl
@[simp] theorem encAt_input (ph : Phase) (p b : Nat) : (encAt ph p b s).input = s.input := rfl

/-! ### encRest -/

@[simp] theorem encRest_cur : (encRest s).cur = s.cur := rfl
@[simp] theorem encRest_tgt : (encRest s).tgt = s.tgt := rfl
@[simp] theorem encRest_nf : (encRest s).nf = s.nf := rfl
@[simp] theorem encRest_ctl : (encRest s).ctl = s.ctl := rfl
@[simp] theorem encRest_op : (encRest s).op = s.op := rfl
@[simp] theorem encRest_p : (encRest s).p = 0 := rfl
@[simp] theorem encRest_b : (encRest s).b = 23 := rfl
@[simp] theorem encRest_ph : (encRest s).ph = .idle := rfl
@[simp] theorem encRest_dout : (encRest s).dout = false := rfl
@[simp] theorem encRest_t : (encRest s).t = 0 := rfl
@[simp] theorem encRest_fadeCnt : (encRest s).fadeCnt = s.fadeCnt := rfl
@[simp] theorem encRest_dec : (encRest s).dec = s.dec := rfl
@[simp] theorem encRest_cfg : (encRest s).cfg = s.cfg := rfl
@[simp] theorem encRest_held : (encRest s).held = s.held := rfl
@[simp] theorem encRest_storeWait : (encRest s).storeWait = s.storeWait := rfl
@[simp] theorem encRest_w : (encRest s).w = s.w := rfl
@[simp] theorem encRest_wPast : (encRest s).wPast = s.wPast := rfl
@[simp] theorem encRest_input : (encRest s).input = s.input := rfl

/-! ### seqIdle -/

@[simp] theorem seqIdle_cur : (seqIdle s).cur = s.cur := rfl
@[simp] theorem seqIdle_tgt : (seqIdle s).tgt = s.tgt := rfl
@[simp] theorem seqIdle_nf : (seqIdle s).nf = s.nf := rfl
@[simp] theorem seqIdle_ctl : (seqIdle s).ctl = .idle := rfl
@[simp] theorem seqIdle_op : (seqIdle s).op = .none := rfl
@[simp] theorem seqIdle_p : (seqIdle s).p = s.p := rfl
@[simp] theorem seqIdle_b : (seqIdle s).b = s.b := rfl
@[simp] theorem seqIdle_ph : (seqIdle s).ph = s.ph := rfl
@[simp] theorem seqIdle_dout : (seqIdle s).dout = s.dout := rfl
@[simp] theorem seqIdle_t : (seqIdle s).t = s.t := rfl
@[simp] theorem seqIdle_fadeCnt : (seqIdle s).fadeCnt = s.fadeCnt := rfl
@[simp] theorem seqIdle_dec : (seqIdle s).dec = s.dec := rfl
@[simp] theorem seqIdle_cfg : (seqIdle s).cfg = s.cfg := rfl
@[simp] theorem seqIdle_held : (seqIdle s).held = s.held := rfl
@[simp] theorem seqIdle_storeWait : (seqIdle s).storeWait = s.storeWait := rfl
@[simp] theorem seqIdle_w : (seqIdle s).w = s.w := rfl
@[simp] theorem seqIdle_wPast : (seqIdle s).wPast = s.wPast := rfl
@[simp] theorem seqIdle_input : (seqIdle s).input = s.input := rfl

/-! ### fadePass -/

@[simp] theorem fadePass_cur : (fadePass s).cur = fadeColors s.cfg.fadeSpeed s.cur s.tgt := rfl
@[simp] theorem fadePass_tgt : (fadePass s).tgt = s.tgt := rfl
@[simp] theorem fadePass_nf : (fadePass s).nf = needsFade (fadeColors s.cfg.fadeSpeed s.cur s.tgt) s.tgt := rfl
@[simp] theorem fadePass_ctl : (fadePass s).ctl = s.ctl := rfl
@[simp] theorem fadePass_op : (fadePass s).op = s.op := rfl
@[simp] theorem fadePass_p : (fadePass s).p = s.p := rfl
@[simp] theorem fadePass_b : (fadePass s).b = s.b := rfl
@[simp] theorem fadePass_ph : (fadePass s).ph = s.ph := rfl
@[simp] theorem fadePass_dout : (fadePass s).dout = s.dout := rfl
@[simp] theorem fadePass_t : (fadePass s).t = s.t := rfl
@[simp] theorem fadePass_fadeCnt : (fadePass s).fadeCnt = 0 := rfl
@[simp] theorem fadePass_dec : (fadePass s).dec = s.dec := rfl
@[simp] theorem fadePass_cfg : (fadePass s).cfg = s.cfg := rfl
@[simp] theorem fadePass_held : (fadePass s).held = s.held := rfl
@[simp] theorem fadePass_storeWait : (fadePass s).storeWait = s.storeWait := rfl
@[simp] theorem fadePass_w : (fadePass s).w = s.w := rfl
@[simp] theorem fadePass_wPast : (fadePass s).wPast = s.wPast := rfl
@[simp] theorem fadePass_input : (fadePass s).input = s.input := rfl

/-! ### flush -/

@[simp] theorem flush_cur : (flush s).cur = s.cur := rfl
@[simp] theorem flush_tgt : (flush s).tgt = s.tgt := rfl
@[simp] theorem flush_nf : (flush s).nf = s.nf := rfl
@[simp] theorem flush_ctl : (flush s).ctl = s.ctl := rfl
@[simp] theorem flush_op : (flush s).op = s.op := rfl
@[simp] theorem flush_p : (flush s).p = 0 := rfl
@[simp] theorem flush_b : (flush s).b = 23 := rfl
@[simp] theorem flush_ph : (flush s).ph = .idle := rfl
@[simp] theorem flush_dout : (flush s).dout = false := rfl
@[simp] theorem flush_t : (flush s).t = 0 := rfl
@[simp] theorem flush_fadeCnt : (flush s).fadeCnt = s.fadeCnt := rfl
@[simp] theorem flush_dec : (flush s).dec = s.dec := rfl
@[simp] theorem flush_cfg : (flush s).cfg = s.cfg := rfl
@[simp] theorem flush_held : (flush s).held = s.held := rfl
@[simp] theorem flush_storeWait : (flush s).storeWait = s.storeWait := rfl
@[simp] theorem flush_w : (flush s).w = s.w ++ frame s.cfg s.cur := rfl
@[simp] theorem flush_wPast : (flush s).wPast = s.wPast := rfl
@[simp] theorem flush_input : (flush s).input = s.input := rfl

/-! ### drawPass -/

@[simp] theorem drawPass_cur : (drawPass s).cur = fadeColors s.cfg.fadeSpeed s.cur s.tgt := rfl
@[simp] theorem drawPass_tgt : (drawPass s).tgt = s.tgt := rfl
@[simp] theorem drawPass_nf : (drawPass s).nf = needsFade (fadeColors s.cfg.fadeSpeed s.cur s.tgt) s.tgt := rfl
@[simp] theorem drawPass_ctl : (drawPass s).ctl = .flush := rfl
@[simp] theorem drawPass_op : (drawPass s).op = s.op := rfl
@[simp] theorem drawPass_p : (drawPass s).p = 0 := rfl
@[simp] theorem drawPass_b : (drawPass s).b = 23 := rfl
@[simp] theorem drawPass_ph : (drawPass s).ph = .idle := rfl
@[simp] theorem drawPass_dout : (drawPass s).dout = false := rfl
@[simp] theorem drawPass_t : (drawPass s).t = 0 := rfl
@[simp] theorem drawPass_fadeCnt : (drawPass s).fadeCnt = 0 := rfl
@[simp] theorem drawPass_dec : (drawPass s).dec = s.dec := rfl
@[simp] theorem drawPass_cfg : (drawPass s).cfg = s.cfg := rfl
@[simp] theorem drawPass_held : (drawPass s).held = s.held := rfl
@[simp] theorem drawPass_storeWait : (drawPass s).storeWait = s.storeWait := rfl
@[simp] theorem drawPass_w : (drawPass s).w = s.w ++ frame s.cfg (fadeColors s.cfg.fadeSpeed s.cur s.tgt) := rfl
@[simp] theorem drawPass_wPast : (drawPass s).wPast = s.wPast := rfl
@[simp] theorem drawPass_input : (drawPass s).input = s.input := rfl

/-! ### loadTimer -/

@[simp] theorem loadTimer_cur : (loadTimer s).cur = s.cur := rfl
@[simp] theorem loadTimer_tgt : (loadTimer s).tgt = s.tgt := rfl
@[simp] theorem loadTimer_nf : (loadTimer s).nf = s.nf := rfl
@[simp] theorem loadTimer_ctl : (loadTimer s).ctl = s.ctl := rfl
@[simp] theorem loadTimer_op : (loadTimer s).op = s.op := rfl
@[simp] theorem loadTimer_p : (loadTimer s).p = s.p := rfl
@[simp] theorem loadTimer_b : (loadTimer s).b = s.b := rfl
@[simp] theorem loadTimer_ph : (loadTimer s).ph = s.ph := rfl
@[simp] theorem loadTimer_dout : (loadTimer s).dout = s.dout := rfl
@[simp] theorem loadTimer_t : (loadTimer s).t = if s.ctl = .flush then curCycles s else 0 := rfl
@[simp] theorem loadTimer_fadeCnt : (loadTimer s).fadeCnt = s.fadeCnt := rfl
@[simp] theorem loadTimer_dec : (loadTimer s).dec = s.dec := rfl
@[simp] theorem loadTimer_cfg : (loadTimer s).cfg = s.cfg := rfl
@[simp] theorem loadTimer_held : (loadTimer s).held = s.held := rfl
@[simp] theorem loadTimer_storeWait : (loadTimer s).storeWait = s.storeWait := rfl
@[simp] theorem loadTimer_w : (loadTimer s).w = s.w := rfl
@[simp] theorem loadTimer_wPast : (loadTimer s).wPast = s.wPast := rfl
@[simp] theorem loadTimer_input : (loadTimer s).input = s.input := rfl

/-! ### startFlush -/

@[simp] theorem startFlush_cur : (startFlush s).cur = s.cur := rfl
@[simp] theorem startFlush_tgt : (startFlush s).tgt = s.tgt := rfl
@[simp] theorem startFlush_nf : (startFlush s).nf = s.nf := rfl
@[simp] theorem startFlush_ctl : (startFlush s).ctl = .flush := rfl
@[simp] theorem startFlush_op : (startFlush s).op = s.op := rfl
@[simp] theorem startFlush_p : (startFlush s).p = 0 := rfl
@[simp] theorem startFlush_b : (startFlush s).b = 23 := rfl
@[simp] theorem startFlush_ph : (startFlush s).ph = .high := rfl
@[simp] theorem startFlush_dout : (startFlush s).dout = true := rfl
@[simp] theorem startFlush_fadeCnt : (startFlush s).fadeCnt = s.fadeCnt := rfl
@[simp] theorem startFlush_dec : (startFlush s).dec = s.dec := rfl
@[simp] theorem startFlush_cfg : (startFlush s).cfg = s.cfg := rfl
@[simp] theorem startFlush_held : (startFlush s).held = s.held := rfl
@[simp] theorem startFlush_storeWait : (startFlush s).storeWait = s.storeWait := rfl
@[simp] theorem startFlush_w : (startFlush s).w = s.w := rfl
@[simp] theorem startFlush_wPast : (startFlush s).wPast = s.wPast := rfl
@[simp] theorem startFlush_input : (startFlush s).input = s.input := rfl

/-! ### lineTaken -/

@[simp] theorem lineTaken_cur (rest : List Input) : (lineTaken rest s).cur = s.cur := rfl
@[simp] theorem lineTaken_tgt (rest : List Input) : (lineTaken rest s).tgt = s.tgt := rfl
@[simp] theorem lineTaken_nf (rest : List Input) : (lineTaken rest s).nf = s.nf := rfl
@[simp] theorem lineTaken_ctl (rest : List Input) : (lineTaken rest s).ctl = s.ctl := rfl
@[simp] theorem lineTaken_op (rest : List Input) : (lineTaken rest s).op = s.op := rfl
@[simp] theorem lineTaken_p (rest : List Input) : (lineTaken rest s).p = s.p := rfl
@[simp] theorem lineTaken_b (rest : List Input) : (lineTaken rest s).b = s.b := rfl
@[simp] theorem lineTaken_ph (rest : List Input) : (lineTaken rest s).ph = s.ph := rfl
@[simp] theorem lineTaken_dout (rest : List Input) : (lineTaken rest s).dout = s.dout := rfl
@[simp] theorem lineTaken_t (rest : List Input) : (lineTaken rest s).t = s.t := rfl
@[simp] theorem lineTaken_fadeCnt (rest : List Input) : (lineTaken rest s).fadeCnt = s.fadeCnt := rfl
@[simp] theorem lineTaken_dec (rest : List Input) : (lineTaken rest s).dec = scanStart := rfl
@[simp] theorem lineTaken_cfg (rest : List Input) : (lineTaken rest s).cfg = s.cfg := rfl
@[simp] theorem lineTaken_held (rest : List Input) : (lineTaken rest s).held = s.held := rfl
@[simp] theorem lineTaken_storeWait (rest : List Input) : (lineTaken rest s).storeWait = 0 := rfl
@[simp] theorem lineTaken_w (rest : List Input) : (lineTaken rest s).w = s.w := rfl
@[simp] theorem lineTaken_wPast (rest : List Input) : (lineTaken rest s).wPast = s.wPast := rfl
@[simp] theorem lineTaken_input (rest : List Input) : (lineTaken rest s).input = rest := rfl

/-! ### setBank, memWrite -/

@[simp] theorem setBank_cur_cur (l : List Color) : (setBank .cur l s).cur = l := rfl
@[simp] theorem setBank_tgt_tgt (l : List Color) : (setBank .tgt l s).tgt = l := rfl
@[simp] theorem setBank_cur_tgt (l : List Color) : (setBank .cur l s).tgt = s.tgt := rfl
@[simp] theorem setBank_tgt_cur (l : List Color) : (setBank .tgt l s).cur = s.cur := rfl
@[simp] theorem setBank_nf (sp : Space) (l : List Color) : (setBank sp l s).nf = s.nf := by cases sp <;> rfl
@[simp] theorem setBank_ctl (sp : Space) (l : List Color) : (setBank sp l s).ctl = s.ctl := by cases sp <;> rfl
@[simp] theorem setBank_op (sp : Space) (l : List Color) : (setBank sp l s).op = s.op := by cases sp <;> rfl
@[simp] theorem setBank_p (sp : Space) (l : List Color) : (setBank sp l s).p = s.p := by cases sp <;> rfl
@[simp] theorem setBank_b (sp : Space) (l : List Color) : (setBank sp l s).b = s.b := by cases sp <;> rfl
@[simp] theorem setBank_ph (sp : Space) (l : List Color) : (setBank sp l s).ph = s.ph := by cases sp <;> rfl
@[simp] theorem setBank_dout (sp : Space) (l : List Color) : (setBank sp l s).dout = s.dout := by cases sp <;> rfl
@[simp] theorem setBank_t (sp : Space) (l : List Color) : (setBank sp l s).t = s.t := by cases sp <;> rfl
@[simp] theorem setBank_fadeCnt (sp : Space) (l : List Color) : (setBank sp l s).fadeCnt = s.fadeCnt := by cases sp <;> rfl
@[simp] theorem setBank_dec (sp : Space) (l : List Color) : (setBank sp l s).dec = s.dec := by cases sp <;> rfl
@[simp] theorem setBank_cfg (sp : Space) (l : List Color) : (setBank sp l s).cfg = s.cfg := by cases sp <;> rfl
@[simp] theorem setBank_held (sp : Space) (l : List Color) : (setBank sp l s).held = s.held := by cases sp <;> rfl
@[simp] theorem setBank_storeWait (sp : Space) (l : List Color) : (setBank sp l s).storeWait = s.storeWait := by cases sp <;> rfl
@[simp] theorem setBank_w (sp : Space) (l : List Color) : (setBank sp l s).w = s.w := by cases sp <;> rfl
@[simp] theorem setBank_wPast (sp : Space) (l : List Color) : (setBank sp l s).wPast = s.wPast := by cases sp <;> rfl
@[simp] theorem setBank_input (sp : Space) (l : List Color) : (setBank sp l s).input = s.input := by cases sp <;> rfl

@[simp] theorem bank_setBank (sp : Space) (l : List Color) : bank sp (setBank sp l s) = l := by cases sp <;> rfl
@[simp] theorem setBank_bank (sp : Space) : setBank sp (bank sp s) s = s := by cases sp <;> rfl
@[simp] theorem setBank_setBank (sp : Space) (l l' : List Color) : setBank sp l (setBank sp l' s) = setBank sp l s := by cases sp <;> rfl
@[simp] theorem memWrite_cur_cur (i : Nat) (v : Color) : (memWrite .cur i v s).cur = s.cur.set i v := rfl
@[simp] theorem memWrite_tgt_tgt (i : Nat) (v : Color) : (memWrite .tgt i v s).tgt = s.tgt.set i v := rfl
@[simp] theorem memWrite_cur_tgt (i : Nat) (v : Color) : (memWrite .cur i v s).tgt = s.tgt := rfl
@[simp] theorem memWrite_tgt_cur (i : Nat) (v : Color) : (memWrite .tgt i v s).cur = s.cur := rfl
@[simp] theorem memWrite_nf (sp : Space) (i : Nat) (v : Color) : (memWrite sp i v s).nf = s.nf := by cases sp <;> rfl
@[simp] theorem memWrite_ctl (sp : Space) (i : Nat) (v : Color) : (memWrite sp i v s).ctl = s.ctl := by cases sp <;> rfl
@[simp] theorem memWrite_op (sp : Space) (i : Nat) (v : Color) : (memWrite sp i v s).op = s.op := by cases sp <;> rfl
@[simp] theorem memWrite_p (sp : Space) (i : Nat) (v : Color) : (memWrite sp i v s).p = s.p := by cases sp <;> rfl
@[simp] theorem memWrite_b (sp : Space) (i : Nat) (v : Color) : (memWrite sp i v s).b = s.b := by cases sp <;> rfl
@[simp] theorem memWrite_ph (sp : Space) (i : Nat) (v : Color) : (memWrite sp i v s).ph = s.ph := by cases sp <;> rfl
@[simp] theorem memWrite_dout (sp : Space) (i : Nat) (v : Color) : (memWrite sp i v s).dout = s.dout := by cases sp <;> rfl
@[simp] theorem memWrite_t (sp : Space) (i : Nat) (v : Color) : (memWrite sp i v s).t = s.t := by cases sp <;> rfl
@[simp] theorem memWrite_fadeCnt (sp : Space) (i : Nat) (v : Color) : (memWrite sp i v s).fadeCnt = s.fadeCnt := by cases sp <;> rfl
@[simp] theorem memWrite_dec (sp : Space) (i : Nat) (v : Color) : (memWrite sp i v s).dec = s.dec := by cases sp <;> rfl
@[simp] theorem memWrite_cfg (sp : Space) (i : Nat) (v : Color) : (memWrite sp i v s).cfg = s.cfg := by cases sp <;> rfl
@[simp] theorem memWrite_held (sp : Space) (i : Nat) (v : Color) : (memWrite sp i v s).held = s.held := by cases sp <;> rfl
@[simp] theorem memWrite_storeWait (sp : Space) (i : Nat) (v : Color) : (memWrite sp i v s).storeWait = s.storeWait := by cases sp <;> rfl
@[simp] theorem memWrite_w (sp : Space) (i : Nat) (v : Color) : (memWrite sp i v s).w = s.w := by cases sp <;> rfl
@[simp] theorem memWrite_wPast (sp : Space) (i : Nat) (v : Color) : (memWrite sp i v s).wPast = s.wPast := by cases sp <;> rfl
@[simp] theorem memWrite_input (sp : Space) (i : Nat) (v : Color) : (memWrite sp i v s).input = s.input := by cases sp <;> rfl

end Sys2Proof.Machine
end

