-- ==== Sys2Proof/Laws/Encoder.lean ====
section
/-! SUPPORT. The laws of the pulse encoder (43_pulse_encoder.md): sizes, the bits of a pixel in order, durations, and what
the timer is loaded with. -/

namespace Sys2Proof.Machine

/-- The bits of a pixel, written out (R184). -/
theorem bitOrder_eq : bitOrder =
    [23, 22, 21, 20, 19, 18, 17, 16, 15, 14, 13, 12, 11, 10, 9, 8, 7, 6, 5, 4, 3, 2, 1, 0] := by decide

@[simp] theorem length_emitBit (c : Cfg) (v : Bool) : (emitBit c v).length = 2 := rfl

@[simp] theorem length_emitPixel (c : Cfg) (v : Color) : (emitPixel c v).length = 48 := by
  rw [emitPixel, bitOrder_eq]; rfl

/-- The cells of a list of pixels (R189). -/
theorem length_cells (c : Cfg) (cur : List Color) : (cur.flatMap (emitPixel c)).length = 48 * cur.length := by
  induction cur with
  | nil => rfl
  | cons v vs ih => rw [List.flatMap_cons, List.length_append, ih, length_emitPixel, List.length_cons]; omega

/-- Every frame has `48*N + 1` instructions, whatever the colours (R189). -/
@[simp] theorem length_frame (c : Cfg) (cur : List Color) : (frame c cur).length = 48 * cur.length + 1 := by
  rw [frame, List.length_append, length_cells]; rfl

/-- Durations add up (70_reset_and_hazards.md R270, R271). -/
@[simp] theorem totalNs_append (xs ys : List Sink) : totalNs (xs ++ ys) = totalNs xs + totalNs ys := by
  induction xs with
  | nil => simp [totalNs]
  | cons x xs ih => simp only [List.cons_append, totalNs, ih]; omega

/-- A duration of at least one clock cycle (R203). -/
theorem cycles_pos (c : Cfg) (d : Nat) : 1 ≤ cycles c d := Nat.le_max_left _ _

/-- Where there is an instruction its cycles are counted (R205). -/
theorem curCycles_of_instr (s : State) (x : Sink) (h : curInstr s = some x) :
    curCycles s = cycles s.cfg (sinkDur x) := by rw [curCycles, h]

/-- There is an instruction exactly outside E_IDLE (R190). -/
theorem curInstr_isSome (s : State) : (curInstr s).isSome = decide (s.ph ≠ .idle) := by
  unfold curInstr; cases s.ph <;> rfl

/-- Outside E_IDLE the timer is loaded with at least 1. -/
theorem one_le_curCycles (s : State) (h : s.ph ≠ .idle) : 1 ≤ curCycles s := by
  unfold curCycles curInstr
  split
  · exact cycles_pos _ _
  · revert h; cases hp : s.ph <;> simp_all

/-- The number of one bits of a pixel is at most 24. -/
theorem onesOf_le (v : Color) : onesOf v ≤ 24 := by
  unfold onesOf
  exact (List.length_filter_le _ _).trans (by decide)

end Sys2Proof.Machine
end

