-- ==== Sys2Proof/Laws/Fade.lean ====
section
/-! SUPPORT. The laws of the fade engine (42_fade_engine.md): what one channel step gives, how the distances shrink, and
what a pass reports. -/

namespace Sys2Proof

/-- Bit `i` of a packed colour: blue below 8, red below 16, green above (20_memory.md R57). -/
theorem getLsbD_pack (r g b : Byte) (i : Nat) :
    (pack r g b).getLsbD i =
      if i < 8 then b.getLsbD i else if i < 16 then r.getLsbD (i - 8) else g.getLsbD (i - 16) := by
  have h : (pack r g b).getLsbD i =
      if i < 8 then b.getLsbD i else if i - 8 < 8 then r.getLsbD (i - 8) else g.getLsbD (i - 8 - 8) := by
    unfold pack; rw [BitVec.getLsbD_append, BitVec.getLsbD_append]
  rw [h]
  split
  · rfl
  · split <;> split <;> first | rfl | omega

@[simp] theorem chG_pack (r g b : Byte) : chG (pack r g b) = g := by
  apply BitVec.eq_of_getLsbD_eq
  intro i hi
  rw [chG, BitVec.getLsbD_extractLsb', getLsbD_pack, if_neg (by omega), if_neg (by omega)]
  simp [hi]

@[simp] theorem chR_pack (r g b : Byte) : chR (pack r g b) = r := by
  apply BitVec.eq_of_getLsbD_eq
  intro i hi
  rw [chR, BitVec.getLsbD_extractLsb', getLsbD_pack, if_neg (by omega), if_pos (by omega)]
  simp [hi]

@[simp] theorem chB_pack (r g b : Byte) : chB (pack r g b) = b := by
  apply BitVec.eq_of_getLsbD_eq
  intro i hi
  rw [chB, BitVec.getLsbD_extractLsb', getLsbD_pack, if_pos (by omega)]
  simp [hi]

/-- A packed colour is determined by its channels (30_encoding.md R96). -/
theorem pack_channels (c : Color) : pack (chR c) (chG c) (chB c) = c := by
  apply BitVec.eq_of_getLsbD_eq
  intro i hi
  rw [getLsbD_pack, chR, chG, chB, BitVec.getLsbD_extractLsb', BitVec.getLsbD_extractLsb',
    BitVec.getLsbD_extractLsb']
  split
  · simp_all
  · split
    · rw [show 8 + (i - 8) = i by omega, decide_eq_true (by omega : i - 8 < 8), Bool.true_and]
    · rw [show 16 + (i - 16) = i by omega, decide_eq_true (by omega : i - 16 < 8), Bool.true_and]

theorem color_eq_iff (c t : Color) : c = t ↔ chR c = chR t ∧ chG c = chG t ∧ chB c = chB t := by
  constructor
  · rintro rfl; exact ⟨rfl, rfl, rfl⟩
  · rintro ⟨hr, hg, hb⟩; rw [← pack_channels c, hr, hg, hb, pack_channels]

end Sys2Proof

namespace Sys2Proof.Machine

/-- One channel step, in closed form: toward the target by at most the speed (R160, R161). -/
theorem fadeStep_toNat (speed : Nat) (cur tgt : Byte) :
    (fadeStep speed cur tgt).toNat =
      if cur.toNat ≤ tgt.toNat then min (cur.toNat + speed) tgt.toNat else max (cur.toNat - speed) tgt.toNat := by
  have hc := cur.isLt
  have ht := tgt.isLt
  unfold fadeStep fadeStepInt clamp
  rw [BitVec.toNat_ofInt]
  split <;> split <;> (try split) <;> omega

/-- The distance left after one channel step (R164). -/
theorem chanDist_fadeStep (speed : Nat) (cur tgt : Byte) :
    chanDist (fadeStep speed cur tgt) tgt = chanDist cur tgt - speed := by
  unfold chanDist; rw [fadeStep_toNat]; split <;> omega

theorem chanDist_le (a b : Byte) : chanDist a b ≤ 255 := by
  have := a.isLt; have := b.isLt; unfold chanDist; omega

theorem chanDist_eq_zero (a b : Byte) : chanDist a b = 0 ↔ a = b := by
  unfold chanDist; rw [Int.natAbs_eq_zero, ← BitVec.toNat_inj]; omega

theorem pixelDist_fadePixel (speed : Nat) (c t : Color) :
    pixelDist (fadePixel speed c t) t = pixelDist c t - speed := by
  simp only [pixelDist, fadePixel, chR_pack, chG_pack, chB_pack, chanDist_fadeStep]; omega

theorem pixelDist_eq_zero (c t : Color) : pixelDist c t = 0 ↔ c = t := by
  rw [color_eq_iff]
  simp only [pixelDist, Nat.max_eq_zero_iff, chanDist_eq_zero]

theorem pixelDist_le (c t : Color) : pixelDist c t ≤ 255 := by
  simp only [pixelDist, Nat.max_le]; exact ⟨chanDist_le _ _, chanDist_le _ _, chanDist_le _ _⟩

/-- A pass brings the largest distance down by the speed (R168). -/
theorem storeDist_fadeColors (speed : Nat) (cur tgt : List Color) :
    storeDist (fadeColors speed cur tgt) tgt = storeDist cur tgt - speed := by
  unfold fadeColors
  induction cur generalizing tgt with
  | nil => simp [storeDist]
  | cons c cs ih =>
    cases tgt with
    | nil => simp [storeDist]
    | cons t ts => simp only [List.zipWith_cons_cons, storeDist, ih, pixelDist_fadePixel]; omega

theorem storeDist_le (cur tgt : List Color) : storeDist cur tgt ≤ 255 := by
  induction cur generalizing tgt with
  | nil => simp [storeDist]
  | cons c cs ih =>
    cases tgt with
    | nil => simp [storeDist]
    | cons t ts => simp only [storeDist, Nat.max_le]; exact ⟨pixelDist_le c t, ih ts⟩

/-- The distance is zero exactly on a converged store. -/
theorem storeDist_eq_zero (cur tgt : List Color) (h : cur.length = tgt.length) : storeDist cur tgt = 0 ↔ cur = tgt := by
  induction cur generalizing tgt with
  | nil => cases tgt <;> simp_all [storeDist]
  | cons c cs ih =>
    cases tgt with
    | nil => simp at h
    | cons t ts =>
      simp only [List.length_cons, Nat.add_right_cancel_iff] at h
      simp only [storeDist, Nat.max_eq_zero_iff, pixelDist_eq_zero, ih ts h, List.cons.injEq]

/-- "Still differs" says that the distance is not zero (R166). -/
theorem needsFade_eq (cur tgt : List Color) : needsFade cur tgt = decide (0 < storeDist cur tgt) := by
  unfold needsFade
  induction cur generalizing tgt with
  | nil => simp [storeDist]
  | cons c cs ih =>
    cases tgt with
    | nil => simp [storeDist]
    | cons t ts =>
      have hp := pixelDist_eq_zero c t
      simp only [List.zip_cons_cons, List.any_cons, ih ts, storeDist, lt_max_iff]
      by_cases hc : c = t <;> by_cases hs : 0 < storeDist cs ts <;> simp_all
      omega

@[simp] theorem length_fadeColors (speed : Nat) (cur tgt : List Color) (h : cur.length = tgt.length) :
    (fadeColors speed cur tgt).length = cur.length := by simp [fadeColors, h]

/-- A pass over a converged store changes no colour (R173). -/
theorem fadeColors_self (speed : Nat) (cur : List Color) : fadeColors speed cur cur = cur := by
  by_cases h : (fadeColors speed cur cur).length = cur.length
  · refine (storeDist_eq_zero _ _ h).1 ?_
    rw [storeDist_fadeColors, (storeDist_eq_zero cur cur rfl).2 rfl, Nat.zero_sub]
  · simp [fadeColors] at h

/-- The distance left after `k` passes (R168). -/
theorem storeDist_fadeColorsN (speed k : Nat) (cur tgt : List Color) :
    storeDist (fadeColorsN speed k cur tgt) tgt = storeDist cur tgt - k * speed := by
  induction k generalizing cur with
  | zero => simp [fadeColorsN]
  | succ k ih => rw [fadeColorsN, ih, storeDist_fadeColors, Nat.succ_mul]; omega

@[simp] theorem length_fadeColorsN (speed k : Nat) (cur tgt : List Color) (h : cur.length = tgt.length) :
    (fadeColorsN speed k cur tgt).length = cur.length := by
  induction k generalizing cur with
  | zero => rfl
  | succ k ih => rw [fadeColorsN, ih _ (by simp [h]), length_fadeColors _ _ _ h]

end Sys2Proof.Machine
end

