-- ==== Sys2Proof/Laws/Draw.lean ====
section
/-! SUPPORT. The laws of the draw loop (41_draw_clear.md): how the number of passes falls by one with each pass, and the
sizes of a DRAW's frames. -/

namespace Sys2Proof.Machine

/-- A pass that lands is the last: `P = 1` (R142). -/
theorem passCount_of_near (speed : Nat) (cur tgt : List Color) (hs : 1 ≤ speed) (h : storeDist cur tgt ≤ speed) :
    passCount speed cur tgt = 1 := by
  unfold passCount
  have h1 : (storeDist cur tgt + speed - 1) / speed ≤ 1 := by
    rw [Nat.div_le_iff_le_mul_add_pred hs]; omega
  omega

/-- A pass that does not land leaves one pass fewer to make (R142). -/
theorem passCount_of_far (speed : Nat) (cur tgt : List Color) (hs : 1 ≤ speed) (h : speed < storeDist cur tgt) :
    passCount speed cur tgt = passCount speed (fadeColors speed cur tgt) tgt + 1 := by
  unfold passCount
  rw [storeDist_fadeColors]
  have h1 : (storeDist cur tgt + speed - 1) / speed = (storeDist cur tgt - speed + speed - 1) / speed + 1 := by
    rw [show storeDist cur tgt + speed - 1 = (storeDist cur tgt - speed + speed - 1) + speed by omega,
      Nat.add_div_right _ hs]
  have h2 : 1 ≤ (storeDist cur tgt - speed + speed - 1) / speed := by
    rw [Nat.one_le_div_iff hs]; omega
  omega

/-- A DRAW makes no more passes than the bound of its loop (R142, R145; log 15). -/
theorem passCount_le_maxPasses (speed : Nat) (cur tgt : List Color) (hs : 1 ≤ speed) :
    passCount speed cur tgt ≤ maxPasses := by
  unfold passCount maxPasses
  have h := storeDist_le cur tgt
  have h1 : (storeDist cur tgt + speed - 1) / speed ≤ 255 := by
    rw [Nat.div_le_iff_le_mul_add_pred hs]
    have h2 : 255 ≤ speed * 255 := Nat.le_mul_of_pos_left 255 hs
    omega
  omega

/-- One pass of the loop reports a mismatch exactly when the pass does not land (42_fade_engine.md R168). -/
theorem drawPass_nf_eq (s : State) :
    (drawPass s).nf = decide (s.cfg.fadeSpeed < storeDist s.cur s.tgt) := by
  rw [drawPass_nf, needsFade_eq, storeDist_fadeColors]
  exact decide_eq_decide.2 (by omega)

/-- The size of the frames of `k` passes (R152). -/
theorem length_drawFrames (c : Cfg) (k : Nat) (cur tgt : List Color) (h : cur.length = tgt.length) :
    (drawFrames c k cur tgt).length = k * (48 * cur.length + 1) := by
  induction k generalizing cur with
  | zero => simp [drawFrames]
  | succ k ih =>
    rw [drawFrames, List.length_append, length_frame, ih _ (by simp [h]), length_fadeColors _ _ _ h, Nat.add_mul k 1,
      Nat.one_mul, Nat.add_comm]

end Sys2Proof.Machine
end

