-- ==== Sys2Proof/Laws/PerInstr.lean ====
section
/-! SUPPORT. Statements made per command, as syntax: one lemma for each constructor. -/

namespace Sys2Proof.Laws

/-- The canonical line of a command uses only bytes of the alphabet (30_encoding.md R82, R108). -/
def Spelled.Statement (i : Instr) : Prop := ∀ (cfg : Cfg), ∀ c ∈ encode cfg i, inAlphabet c = true

/-- The spelling of an integer stays in the alphabet. -/
theorem inAlphabet_intText (x : Int) : ∀ c ∈ intText x, inAlphabet c = true := by
  intro c hc
  unfold intText at hc
  split at hc
  · rcases List.mem_cons.1 hc with rfl | hc
    · decide
    · exact inAlphabet_of_isDigit c (isDigit_decText _ c hc)
  · exact inAlphabet_of_isDigit c (isDigit_decText _ c hc)

/-- So does a whole line. -/
theorem inAlphabet_lineText (x : Int) (r g b : Byte) : ∀ c ∈ lineText x r g b, inAlphabet c = true := by
  have hs : inAlphabet spaceByte = true := by decide
  have hd : ∀ m c, c ∈ decText m → inAlphabet c = true := fun m c h => inAlphabet_of_isDigit c (isDigit_decText m c h)
  intro c hc
  simp only [lineText, List.mem_append, List.mem_cons] at hc
  rcases hc with h | rfl | h | rfl | h | rfl | h
  · exact inAlphabet_intText x c h
  · exact hs
  · exact hd _ c h
  · exact hs
  · exact hd _ c h
  · exact hs
  · exact hd _ c h

theorem Spelled.setPixel (i : Nat) (c : Color) : Spelled.Statement (.setPixel i c) :=
  fun _ => inAlphabet_lineText _ _ _ _

theorem Spelled.setTarget (i : Nat) (c : Color) : Spelled.Statement (.setTarget i c) :=
  fun _ => inAlphabet_lineText _ _ _ _

theorem Spelled.setSegTarget (s : Nat) (c : Color) : Spelled.Statement (.setSegTarget s c) :=
  fun _ => inAlphabet_lineText _ _ _ _

theorem Spelled.draw : Spelled.Statement .draw := fun _ => inAlphabet_lineText _ _ _ _

theorem Spelled.clear : Spelled.Statement .clear := fun _ => inAlphabet_lineText _ _ _ _

theorem Spelled.nopBelow : Spelled.Statement .nopBelow := fun _ => inAlphabet_lineText _ _ _ _

theorem Spelled.nopBeyond : Spelled.Statement .nopBeyond := fun _ => inAlphabet_lineText _ _ _ _

theorem Spelled.nopMalformed : Spelled.Statement .nopMalformed := by
  have h : ∀ c ∈ encode Cfg.reference .nopMalformed, inAlphabet c = true := by decide
  exact fun _ => h

end Sys2Proof.Laws
end

