-- ==== Sys2Proof/Laws/Store.lean ====
section
/-! SUPPORT. The laws of the pixel store: a read after a write, writes over a list of pixels, the segment ranges, and
that every write keeps the store's size (10_state.md R21; 20_memory.md R54, R71, R72). -/

namespace Sys2Proof.Machine

/-- A read after a write: the value at the written register, the old value elsewhere and in the other file. -/
theorem memRead_memWrite (sp sp' : Space) (i j : Nat) (v : Color) (s : State) (h : i < (bank sp s).length) :
    memRead sp' j (memWrite sp i v s) = if sp' = sp ∧ j = i then v else memRead sp' j s := by
  cases sp <;> cases sp' <;>
    simp only [memRead, memWrite, bank, setBank, List.getD_eq_getElem?_getD, List.getElem?_set,
      reduceCtorEq, false_and, true_and, if_false] <;>
    simp only [bank] at h <;> by_cases hji : j = i
  all_goals first
    | (subst hji; simp [h])
    | simp [hji, Ne.symm hji]

/-- A write outside the store changes nothing (20_memory.md R72). -/
theorem memWrite_outside (sp : Space) (i : Nat) (v : Color) (s : State) (h : (bank sp s).length ≤ i) :
    memWrite sp i v s = s := by
  rw [memWrite, List.set_eq_of_length_le h, setBank_bank]

/-- The register file written, after writes of one value to several registers. -/
theorem bank_memWriteAll (sp : Space) (is : List Nat) (v : Color) (s : State) :
    bank sp (memWriteAll sp is v s) = is.foldl (fun l i => l.set i v) (bank sp s) := by
  induction is generalizing s with
  | nil => rfl
  | cons i is ih => simpa [memWriteAll, memWrite] using ih (memWrite sp i v s)

/-- Writes to several registers change their register file only. -/
theorem memWriteAll_eq (sp : Space) (is : List Nat) (v : Color) (s : State) :
    memWriteAll sp is v s = setBank sp (is.foldl (fun l i => l.set i v) (bank sp s)) s := by
  induction is generalizing s with
  | nil => simp [memWriteAll]
  | cons i is ih =>
    have h := ih (memWrite sp i v s)
    simp only [memWriteAll, List.foldl_cons] at h ⊢
    rw [h, memWrite, bank_setBank, setBank_setBank]

/-- Reading a list after one value is written at several places. -/
theorem getElem?_foldl_set (is : List Nat) (v : Color) (l : List Color) (j : Nat) :
    (is.foldl (fun l i => l.set i v) l)[j]? = if j ∈ is ∧ j < l.length then some v else l[j]? := by
  induction is generalizing l with
  | nil => simp
  | cons i is ih =>
    rw [List.foldl_cons, ih, List.length_set, List.getElem?_set]
    by_cases hj : j ∈ is <;> by_cases hl : j < l.length <;> by_cases hij : i = j <;>
      simp_all [List.mem_cons, eq_comm]

@[simp] theorem length_foldl_set (is : List Nat) (v : Color) (l : List Color) :
    (is.foldl (fun l i => l.set i v) l).length = l.length := by
  induction is generalizing l with
  | nil => rfl
  | cons i is ih => rw [List.foldl_cons, ih, List.length_set]

/-- A segment's pixels are the inclusive range (20_memory.md R54). -/
theorem mem_segmentPixels (g : Segment) (i : Nat) : i ∈ segmentPixels g ↔ g.start ≤ i ∧ i ≤ g.stop := by
  rw [segmentPixels, List.mem_range'_1]; omega

/-- Writing one value to all `n` registers of a file of `n`. -/
theorem foldl_set_all (v : Color) (l : List Color) (n : Nat) (h : l.length = n) :
    (List.range n).foldl (fun l i => l.set i v) l = List.replicate n v := by
  apply List.ext_getElem?
  intro j
  rw [getElem?_foldl_set, List.getElem?_replicate]
  by_cases hj : j < n
  · simp [hj, h]
  · simp [hj, h]

/-- CLEAR's zeroing (41_draw_clear.md R146). -/
theorem clearStore_eq (s : State) (hc : s.cur.length = s.cfg.n) (ht : s.tgt.length = s.cfg.n) :
    clearStore s =
      { s with cur := List.replicate s.cfg.n 0, tgt := List.replicate s.cfg.n 0, nf := false } := by
  unfold clearStore allPixels
  rw [memWriteAll_eq, memWriteAll_eq]
  simp [setBank, bank, foldl_set_all, hc, ht]

/-- The configuration's own legality, field by field (00_scope.md R7 to R12). -/
theorem cfg_legal (c : Cfg) :
    1 ≤ c.n ∧ (∀ g ∈ c.segs, g.start ≤ g.stop ∧ g.stop < c.n) ∧ 1 ≤ c.fadeSpeed ∧
      (1 ≤ c.t1h ∧ 1 ≤ c.t1l ∧ 1 ≤ c.t0h ∧ 1 ≤ c.t0l) ∧ Config.tresetMin < c.treset ∧ 1 ≤ c.clkPeriodNs := by
  have h := c.legal
  simp only [Params.legal, Bool.and_eq_true, decide_eq_true_eq, List.all_eq_true] at h
  obtain ⟨⟨⟨⟨⟨⟨⟨⟨h1, h2⟩, h3⟩, h4⟩, h5⟩, h6⟩, h7⟩, h8⟩, h9⟩ := h
  exact ⟨h1, h2, h3, ⟨h4, h5, h6, h7⟩, h8, h9⟩

/-- Every write to the store keeps its size. -/
theorem storeOk_memWrite (sp : Space) (i : Nat) (v : Color) (s : State) (h : s.cur.length = s.cfg.n ∧ s.tgt.length = s.cfg.n) :
    (memWrite sp i v s).cur.length = (memWrite sp i v s).cfg.n ∧
      (memWrite sp i v s).tgt.length = (memWrite sp i v s).cfg.n := by
  cases sp <;> simpa using h

theorem storeOk_memWriteAll (sp : Space) (is : List Nat) (v : Color) (s : State)
    (h : s.cur.length = s.cfg.n ∧ s.tgt.length = s.cfg.n) :
    (memWriteAll sp is v s).cur.length = (memWriteAll sp is v s).cfg.n ∧
      (memWriteAll sp is v s).tgt.length = (memWriteAll sp is v s).cfg.n := by
  rw [memWriteAll_eq]
  cases sp <;> simpa [bank] using h

end Sys2Proof.Machine
end

