-- ==== Sys2Proof/Laws/Sequencer.lean ====
section
/-! SUPPORT. What the shared operations of a step can do, said once: a step of the sequencer, the run of a command, a
decoded line, and a clock edge by the case it falls in (41_draw_clear.md R150; 43_pulse_encoder.md R190 to R207). -/

namespace Sys2Proof.Machine

/-! ### The sequencer -/

/-- The step after `k` steps. -/
theorem seqRun_succ (k : Nat) (s : State) : seqRun (k + 1) s = seqStep (seqRun k s) := by
  induction k generalizing s with
  | zero => rfl
  | succ k ih => exact ih (seqStep s)

/-- Steps add up. -/
theorem seqRun_add (a b : Nat) (s : State) : seqRun (a + b) s = seqRun b (seqRun a s) := by
  induction a generalizing s with
  | zero => rw [Nat.zero_add]; rfl
  | succ a ih => rw [Nat.add_right_comm]; exact ih (seqStep s)

/-- The next bit of the same pixel (R193). -/
theorem afterLow_bit (s : State) (h : 0 < s.b) : afterLow s = encAt .high s.p (s.b - 1) s := if_pos h

/-- The first bit of the next pixel (R194). -/
theorem afterLow_pixel (s : State) (h : ¬ 0 < s.b) (hp : s.p + 1 < s.cfg.n) :
    afterLow s = encAt .high (s.p + 1) 23 s := (if_neg h).trans (if_pos hp)

/-- The reset gap (R195). -/
theorem afterLow_gap (s : State) (h : ¬ 0 < s.b) (hp : ¬ s.p + 1 < s.cfg.n) :
    afterLow s = encAt .reset s.p s.b s := (if_neg h).trans (if_neg hp)

/-- Where the encoder goes after a cell: only the position, the phase and the level change (R193 to R195). -/
theorem afterLow_frame (s : State) :
    afterLow s = { s with ph := (afterLow s).ph, p := (afterLow s).p, b := (afterLow s).b, dout := (afterLow s).dout } := by
  unfold afterLow
  split
  · rfl
  · split <;> rfl

/-- The end of a flush: only the sequencer and the pass's progress change (R150). -/
theorem gapDone_frame (s : State) :
    gapDone s = { s with ctl := (gapDone s).ctl, op := (gapDone s).op, fadeCnt := (gapDone s).fadeCnt } := by
  unfold gapDone
  split <;> rfl

/-- A step of the running command reads no port, changes no target and no configuration, and only adds to the trace
(42_fade_engine.md R172; 43_pulse_encoder.md R180, R212). -/
theorem seqStep_frame (s : State) :
    (seqStep s).tgt = s.tgt ∧ (seqStep s).cfg = s.cfg ∧ (seqStep s).input = s.input ∧ (seqStep s).held = s.held ∧
      (seqStep s).dec = s.dec ∧ (seqStep s).storeWait = s.storeWait ∧ (seqStep s).wPast = s.wPast ∧
      s.w <+: (seqStep s).w := by
  unfold seqStep
  split
  · simp
  · simp
  · unfold encStep
    split
    · simp
    · simp
    · rw [afterLow_frame]; simp
    · rw [gapDone_frame]; simp

/-- The timer's reload does not read the timer. -/
theorem curCycles_loadTimer (s : State) : curCycles (loadTimer s) = curCycles s := by
  simp [curCycles, curInstr, curBit, memRead, bank]

/-- A step of the encoder does not read the timer (R205). -/
theorem seqStep_timer (s : State) (k : Nat) (hc : s.ctl = .flush) (hp : s.ph ≠ .idle) :
    seqStep { s with t := k } = seqStep s := by
  obtain ⟨cur, tgt, nf, ctl, op, p, b, ph, dout, t, fadeCnt, dec, cfg, held, storeWait, w, wPast, input⟩ := s
  subst hc
  cases ph with
  | idle => exact absurd rfl hp
  | high => rfl
  | low =>
    simp only [seqStep, encStep]
    by_cases h1 : 0 < b
    · rw [afterLow_bit _ h1, afterLow_bit _ h1]; rfl
    · by_cases h2 : p + 1 < cfg.n
      · rw [afterLow_pixel _ h1 h2, afterLow_pixel _ h1 h2]; rfl
      · rw [afterLow_gap _ h1 h2, afterLow_gap _ h1 h2]; rfl
  | reset => rfl

/-! ### Commands -/

/-- One draw pass changes the current colours, `nf`, the sequencer, the encoder and the trace only (R140). -/
theorem drawPass_frame (s : State) :
    (drawPass s).tgt = s.tgt ∧ (drawPass s).cfg = s.cfg ∧ (drawPass s).input = s.input ∧ (drawPass s).held = s.held ∧
      (drawPass s).dec = s.dec ∧ (drawPass s).storeWait = s.storeWait ∧ (drawPass s).wPast = s.wPast ∧
      s.w <+: (drawPass s).w := by
  simp [drawPass]

/-- What no number of draw passes changes. -/
theorem drawLoop_frame (k : Nat) (s : State) :
    (drawLoop k s).tgt = s.tgt ∧ (drawLoop k s).cfg = s.cfg ∧ (drawLoop k s).input = s.input ∧
      (drawLoop k s).held = s.held ∧ (drawLoop k s).dec = s.dec ∧ (drawLoop k s).storeWait = s.storeWait ∧
      (drawLoop k s).wPast = s.wPast ∧ s.w <+: (drawLoop k s).w := by
  induction k generalizing s with
  | zero => simp [drawLoop]
  | succ k ih =>
    obtain ⟨a1, a2, a3, a4, a5, a6, a7, a8⟩ := drawPass_frame s
    rw [drawLoop]
    split
    · obtain ⟨b1, b2, b3, b4, b5, b6, b7, b8⟩ := ih (drawPass s)
      exact ⟨b1.trans a1, b2.trans a2, b3.trans a3, b4.trans a4, b5.trans a5, b6.trans a6, b7.trans a7, a8.trans b8⟩
    · exact ⟨a1, a2, a3, a4, a5, a6, a7, a8⟩

/-- What no command changes, and that the trace only grows (00_scope.md R13, R16; 20_memory.md R69). -/
theorem exec_frame (i : Instr) (s t : State) (h : exec i s = .next t) :
    t.cfg = s.cfg ∧ t.input = s.input ∧ t.held = s.held ∧ t.dec = s.dec ∧ t.storeWait = s.storeWait ∧
      t.wPast = s.wPast ∧ s.w <+: t.w := by
  cases i with
  | setPixel i c => cases h; simp [setPixel]
  | setTarget i c => cases h; simp [setTarget]
  | setSegTarget g c => cases h; simp [setSegTarget, memWriteAll_eq]
  | draw => cases h; obtain ⟨_, b⟩ := drawLoop_frame maxPasses (setOp .draw s); simpa [runDraw] using b
  | clear => cases h; simp [runClear, clearStore, memWriteAll_eq]
  | nopBelow => cases h; simp
  | nopBeyond => cases h; simp
  | nopMalformed => cases h; simp

/-- The start of a command, likewise. -/
theorem beginCmd_frame (i : Instr) (s : State) :
    (beginCmd i s).cfg = s.cfg ∧ (beginCmd i s).input = s.input ∧ (beginCmd i s).held = s.held ∧
      (beginCmd i s).dec = s.dec ∧ (beginCmd i s).wPast = s.wPast ∧ (beginCmd i s).w = s.w := by
  cases i <;> simp [beginCmd, setPixel, setTarget, setSegTarget, clearStore, memWriteAll_eq]

/-! ### Clock edges -/

/-- An edge of the idle block with no store command being applied: a byte is taken or nothing happens (R207). -/
theorem clockEdge_idle (q : Pins) (s : State) (hr : q.rst = false) (hh : s.held = false) (hc : s.ctl = .idle)
    (hw : s.storeWait = 0) : clockEdge q s = if q.valid then takeByte q.data q.last s else s := by
  simp [clockEdge, runEdge, hr, hh, hc, hw]

/-- An edge while a store command is being applied counts it down (R207). -/
theorem clockEdge_storeWait (q : Pins) (s : State) (hr : q.rst = false) (hh : s.held = false) (hc : s.ctl = .idle)
    (hw : 0 < s.storeWait) : clockEdge q s = { s with storeWait := s.storeWait - 1 } := by
  simp only [clockEdge, runEdge, hr, hh, hc, hw, if_true, if_false, Bool.false_eq_true]

/-- An edge inside a fade pass (10_state.md R37). -/
theorem clockEdge_fade (q : Pins) (s : State) (hr : q.rst = false) (hh : s.held = false) (hc : s.ctl = .fade) :
    clockEdge q s =
      if s.fadeCnt + 1 < fadeCycles s.cfg then { s with fadeCnt := s.fadeCnt + 1 } else seqStep s := by
  simp only [clockEdge, runEdge, hr, hh, hc, if_false, Bool.false_eq_true]

/-- An edge inside a sink instruction (R205). -/
theorem clockEdge_flush (q : Pins) (s : State) (hr : q.rst = false) (hh : s.held = false) (hc : s.ctl = .flush) :
    clockEdge q s = if 1 < s.t then { s with t := s.t - 1 } else seqStep s := by
  simp only [clockEdge, runEdge, hr, hh, hc, if_false, Bool.false_eq_true]

/-- A byte that is taken changes nothing but the decoder or what the command it completes changes (R207). -/
theorem takeByte_frame (d : Byte) (l : Bool) (s : State) :
    (takeByte d l s).cfg = s.cfg ∧ (takeByte d l s).input = s.input ∧ (takeByte d l s).held = s.held ∧
      (takeByte d l s).wPast = s.wPast ∧ (takeByte d l s).w = s.w := by
  unfold takeByte applyLine
  split
  · split <;> simp [beginCmd_frame]
  · simp

/-- An edge of a block out of reset changes neither the configuration nor what is pending, and the trace only grows. -/
theorem runEdge_frame (q : Pins) (s : State) :
    (runEdge q s).cfg = s.cfg ∧ (runEdge q s).input = s.input ∧ (runEdge q s).held = s.held ∧
      (runEdge q s).wPast = s.wPast ∧ s.w <+: (runEdge q s).w := by
  obtain ⟨_, b2, b3, b4, _, _, b7, b8⟩ := seqStep_frame s
  unfold runEdge
  split
  · split
    · simp
    · split
      · obtain ⟨a1, a2, a3, a4, a5⟩ := takeByte_frame q.data q.last s
        exact ⟨a1, a2, a3, a4, by rw [a5]⟩
      · simp
  · split
    · simp
    · exact ⟨b2, b3, b4, b7, b8⟩
  · split
    · simp
    · exact ⟨b2, b3, b4, b7, b8⟩

/-- The streaming decoder keeps its ranges: the token counter in 0..3, four values (30_encoding.md R112). -/
theorem scanByte_range (cfg : Cfg) (d : Scan) (c : Byte) (h : d.tok ≤ 3 ∧ d.v.length = 4) :
    (scanByte cfg d c).tok ≤ 3 ∧ (scanByte cfg d c).v.length = 4 := by
  have he : (endToken d).tok ≤ 3 ∧ (endToken d).v.length = 4 := by
    unfold endToken
    split
    · exact h
    · simp only [List.length_set]; omega
  have hm : ∀ b v, (scanMore cfg b v d c).tok ≤ 3 ∧ (scanMore cfg b v d c).v.length = 4 := by
    intro b v
    unfold scanMore
    split <;> exact h
  have ho : (scanOpenDec d c).tok ≤ 3 ∧ (scanOpenDec d c).v.length = 4 := by
    unfold scanOpenDec
    split <;> exact h
  unfold scanByte scanFirst
  repeat' split
  all_goals first | exact h | exact he | exact ho | exact hm _ _

end Sys2Proof.Machine
end

