-- ==== Sys2Proof/Laws/Step.lean ====
section
/-! SUPPORT. A step by the case it falls in: what is pending, and whether the block is busy, held in reset, or waiting
(60_exceptions.md R230, R235 to R238). -/

namespace Sys2Proof.Machine

/-- With nothing pending the running command goes on. -/
theorem step_nothing (s : State) (h : s.input = []) : step s = .next (seqStep s) := by
  unfold step stepInput; rw [h]

/-- A clock edge is pending. -/
theorem step_edge (s : State) (q : Pins) (rest : List Input) (h : s.input = .edge q :: rest) :
    step s = .next (clockEdge q { s with input := rest }) := by
  unfold step stepInput; rw [h]

/-- A line is pending and the block is busy (R230). -/
theorem step_line_busy (s : State) (line : List Byte) (rest : List Input) (h : s.input = .line line :: rest)
    (hc : s.ctl ≠ .idle) : step s = .next (seqStep s) := by
  unfold step stepInput; rw [h]; exact if_pos hc

/-- A line is pending and the block is held in reset: it is released. -/
theorem step_line_held (s : State) (line : List Byte) (rest : List Input) (h : s.input = .line line :: rest)
    (hc : s.ctl = .idle) (hh : s.held = true) : step s = .next (release none s) := by
  unfold step stepInput; rw [h]; simp [offerLine, hc, hh]

/-- A line is pending and the block takes it (20_memory.md R65, R69). -/
theorem step_line_idle (s : State) (line : List Byte) (rest : List Input) (h : s.input = .line line :: rest)
    (hc : s.ctl = .idle) (hh : s.held = false) : step s = exec (lineInstr s line) (lineTaken rest s) := by
  unfold step stepInput; rw [h]; simp [offerLine, hc, hh]

/-- A run of `k + 1` steps whose first step answers `t` is a run of `k` steps from `t`. -/
theorem run_succ_of_step (k : Nat) (s t : State) (h : step s = .next t) :
    Sys2Proof.core.run (k + 1) s = Sys2Proof.core.run k t := by
  have e : Sys2Proof.core.step s = .next t := h
  refine (Host.Core.run.eq_2 Sys2Proof.core s k).trans ?_
  rw [e]

/-- The state made for a line waits for it, and the line is first. -/
theorem placeLine_waits (line : List Byte) (s : State) :
    (placeLine line s).ctl = .idle ∧ (placeLine line s).dec = scanStart ∧ (placeLine line s).held = false ∧
      (placeLine line s).input = .line line :: s.input := by
  simp [placeLine]

end Sys2Proof.Machine
end

