-- ==== Sys2Proof/Tests/Slice0.lean ====
section
/-! SUPPORT. The model's own tests: expected values are the spec's (95_test_vectors.md and the examples of
opcode_table.json), and for each statement with hypotheses a state and operands that meet them. -/

namespace Sys2Proof.Tests

open Sys2Proof.Machine

/-! ### The states used -/

/-- The configuration of program P6 (95_test_vectors.md): two pixels, one segment. -/
def tiny : Cfg where
  n := 2
  segs := [⟨0, 1⟩]
  fadeSpeed := 3
  t1h := 700
  t1l := 600
  t0h := 350
  t0l := 800
  treset := 70000
  clkPeriodNs := 50
  legal := by decide

/-- The block of program P6 with the given store. -/
def tinyAt (cur tgt : List Color) : State := { State.init tiny with cur := cur, tgt := tgt }

/-- The store of program P6 after its line 1. -/
def lit : State := tinyAt [0x000000, 0x008001] [0x000000, 0x008001]

/-- A CLEAR has begun: the first instruction of its frame is on the line. -/
def busy : State := beginCmd .clear lit

/-- A DRAW has begun: its first fade pass runs. -/
def fading : State := beginCmd .draw lit

/-- The block held in reset. -/
def heldState : State := { State.init tiny with held := true }

/-- What the ports hold at an edge with nothing offered. -/
def quiet : Pins := ⟨false, false, false, 0, none⟩

/-- What the ports hold at an edge with `rst = 1`. -/
def resetPins : Pins := ⟨true, false, false, 0, none⟩

/-- `-1 0 0 0`, the canonical DRAW line. -/
def drawLine : List Byte := [0x2D#8, 0x31#8, 0x20#8, 0x30#8, 0x20#8, 0x30#8, 0x20#8, 0x30#8]

/-- `5 9 9 9`: in the configuration of P6 the index is `2N+S`, unmapped. -/
def unmappedLine : List Byte := [0x35#8, 0x20#8, 0x39#8, 0x20#8, 0x39#8, 0x20#8, 0x39#8]

/-- The state of a finished outcome, to read a test's result from. -/
def after (o : Host.Outcome State Fault Refusal) : State :=
  match o with
  | .next t => t
  | .fault _ => lit
  | .refused _ => lit

/-! ### Well-formedness: one ill-formed command for each check (30_encoding.md R99) -/

theorem test_wf_setPixel :
    Instr.wf Cfg.reference (.setPixel 41 0) = true ∧ Instr.wf Cfg.reference (.setPixel 42 0) = false := by decide

theorem test_wf_setTarget :
    Instr.wf Cfg.reference (.setTarget 41 0) = true ∧ Instr.wf Cfg.reference (.setTarget 42 0) = false := by decide

theorem test_wf_setSegTarget :
    Instr.wf Cfg.reference (.setSegTarget 3 0) = true ∧ Instr.wf Cfg.reference (.setSegTarget 4 0) = false := by decide

/-- An illegal configuration is refused: a segment that runs past the store (00_scope.md R11), a reset gap that is not
above the protocol's minimum (R9), a store of no pixels (R7). -/
theorem test_illegal_configurations :
    Params.legal { tiny.toParams with segs := [⟨0, 2⟩] } = false ∧
      Params.legal { tiny.toParams with segs := [⟨1, 0⟩] } = false ∧
      Params.legal { tiny.toParams with treset := 50000 } = false ∧
      Params.legal { tiny.toParams with n := 0, segs := [] } = false ∧
      Params.legal { tiny.toParams with fadeSpeed := 0 } = false ∧
      Params.legal { tiny.toParams with t0l := 0 } = false ∧
      Params.legal { tiny.toParams with clkPeriodNs := 0 } = false := by decide

/-! ### Decoding: words written out bit by bit (30_encoding.md R80, R82, R97; opcode_table.json) -/

/-- `5 255 0 0`, the table's example of SETPIXEL; bytes 35 20 32 35 35 20 30 20 30. -/
theorem test_decode_setPixel :
    decode Cfg.reference
        [0b00110101#8, 0b00100000#8, 0b00110010#8, 0b00110101#8, 0b00110101#8, 0b00100000#8, 0b00110000#8,
         0b00100000#8, 0b00110000#8]
      = .setPixel 5 0x00FF00 := by decide

/-- `83 255 255 255` (V1): the last of the target window. -/
theorem test_decode_setTarget :
    decode Cfg.reference
        [0b00111000#8, 0b00110011#8, 0b00100000#8, 0b00110010#8, 0b00110101#8, 0b00110101#8, 0b00100000#8,
         0b00110010#8, 0b00110101#8, 0b00110101#8, 0b00100000#8, 0b00110010#8, 0b00110101#8, 0b00110101#8]
      = .setTarget 41 0xFFFFFF := by decide

/-- `87 0x0A 0x14 0x1e` (V1): the last of the segment window, hexadecimal digits in both cases. -/
theorem test_decode_setSegTarget :
    decode Cfg.reference
        [0b00111000#8, 0b00110111#8, 0b00100000#8, 0b00110000#8, 0b01111000#8, 0b00110000#8, 0b01000001#8,
         0b00100000#8, 0b00110000#8, 0b01111000#8, 0b00110001#8, 0b00110100#8, 0b00100000#8, 0b00110000#8,
         0b01111000#8, 0b00110001#8, 0b01100101#8]
      = .setSegTarget 3 0x140A1E := by decide

/-- `-1 255 0x7f 3` (V1): DRAW, the colour ignored. -/
theorem test_decode_draw :
    decode Cfg.reference
        [0b00101101#8, 0b00110001#8, 0b00100000#8, 0b00110010#8, 0b00110101#8, 0b00110101#8, 0b00100000#8,
         0b00110000#8, 0b01111000#8, 0b00110111#8, 0b01100110#8, 0b00100000#8, 0b00110011#8]
      = .draw := by decide

/-- `-002 1 1 1` (V1): CLEAR, with leading zeros in the index. -/
theorem test_decode_clear :
    decode Cfg.reference
        [0b00101101#8, 0b00110000#8, 0b00110000#8, 0b00110010#8, 0b00100000#8, 0b00110001#8, 0b00100000#8,
         0b00110001#8, 0b00100000#8, 0b00110001#8]
      = .clear := by decide

/-- `-3 0 0 0` (V1): the canonical NOP. -/
theorem test_decode_nopBelow :
    decode Cfg.reference
        [0b00101101#8, 0b00110011#8, 0b00100000#8, 0b00110000#8, 0b00100000#8, 0b00110000#8, 0b00100000#8,
         0b00110000#8]
      = .nopBelow := by decide

/-- `4294967295 0 0 0` (V1): a NOP and not a DRAW, no index wraps. -/
theorem test_decode_nopBeyond :
    decode Cfg.reference
        [0b00110100#8, 0b00110010#8, 0b00111001#8, 0b00110100#8, 0b00111001#8, 0b00110110#8, 0b00110111#8,
         0b00110010#8, 0b00111001#8, 0b00110101#8, 0b00100000#8, 0b00110000#8, 0b00100000#8, 0b00110000#8,
         0b00100000#8, 0b00110000#8]
      = .nopBeyond := by decide

/-- `5 0X1F 0 0` (V2): a capital `X`. -/
theorem test_decode_nopMalformed :
    decode Cfg.reference
        [0b00110101#8, 0b00100000#8, 0b00110000#8, 0b01011000#8, 0b00110001#8, 0b01000110#8, 0b00100000#8,
         0b00110000#8, 0b00100000#8, 0b00110000#8]
      = .nopMalformed := by decide

/-- Words of the table: the index image of DRAW, CLEAR, the canonical NOP, index 88, and the five bytes of `5 1 2`. -/
theorem test_decode_tableWords :
    decodeTableWord 32 0b11111111111111111111111111111111 = some .draw ∧
      decodeTableWord 32 0b11111111111111111111111111111110 = some .clear ∧
      decodeTableWord 32 0b11111111111111111111111111111101 = some .nopBelow ∧
      decodeTableWord 32 0b00000000000000000000000001011000 = some .nopBeyond ∧
      decodeTableWord 40 0x3220312035 = some .nopMalformed := by decide

/-- The two indices 41 and 42 (V1): the last of the pixel window and the first of the target window. -/
theorem test_decode_windowBoundary :
    decode Cfg.reference [0x34#8, 0x31#8, 0x20#8, 0x31#8, 0x20#8, 0x32#8, 0x20#8, 0x33#8] = .setPixel 41 0x020103 ∧
      decode Cfg.reference [0x34#8, 0x32#8, 0x20#8, 0x31#8, 0x20#8, 0x32#8, 0x20#8, 0x33#8] = .setTarget 0 0x020103 := by
  decide

/-- The streaming decoder on the DRAW line and on `5 1 2 3 ` with its trailing space (V2). -/
theorem test_streaming :
    scanEnd Cfg.reference (scanBytes Cfg.reference scanStart drawLine) = .draw ∧
      scanEnd Cfg.reference (scanBytes Cfg.reference scanStart
        [0x35#8, 0x20#8, 0x31#8, 0x20#8, 0x32#8, 0x20#8, 0x33#8, 0x20#8]) = .nopMalformed := by decide

/-! ### One step of each command -/

/-- V6, line `3 1 2 3`. -/
theorem test_setPixel_writes_both :
    memRead .cur 3 (after (exec (.setPixel 3 0x020103) State.reset)) = 0x020103 ∧
      memRead .tgt 3 (after (exec (.setPixel 3 0x020103) State.reset)) = 0x020103 ∧
      memRead .tgt 4 (after (exec (.setPixel 3 0x020103) State.reset)) = 0 := by decide

/-- V6, line `45 9 9 9`: the current colour stays. -/
theorem test_setTarget_leaves_current :
    memRead .tgt 1 (after (exec (.setTarget 1 0x090909) lit)) = 0x090909 ∧
      memRead .cur 1 (after (exec (.setTarget 1 0x090909) lit)) = 0x008001 := by decide

/-- V6, line `85 0 0 7`: segment 1 is pixels 0 to 13, and both ends are written. -/
theorem test_setSegTarget_inclusive :
    memRead .tgt 0 (after (exec (.setSegTarget 1 0x000007) State.reset)) = 0x000007 ∧
      memRead .tgt 13 (after (exec (.setSegTarget 1 0x000007) State.reset)) = 0x000007 ∧
      memRead .tgt 14 (after (exec (.setSegTarget 1 0x000007) State.reset)) = 0 := by decide

/-- P6, line 2: the two one-cells of the frame, and its last instruction. -/
theorem test_draw_converged_frame :
    (after (exec .draw lit)).w.length = 97 ∧
      (after (exec .draw lit)).w[64]? = some (.holdHigh 700) ∧ (after (exec .draw lit)).w[65]? = some (.holdLow 600) ∧
      (after (exec .draw lit)).w[62]? = some (.holdHigh 350) ∧ (after (exec .draw lit)).w[94]? = some (.holdHigh 700) ∧
      (after (exec .draw lit)).w[96]? = some (.holdLow 70000) := by decide

/-- P1 on two pixels: a target of 9 takes three passes, three frames of 97 instructions. -/
theorem test_draw_three_passes :
    (after (exec .draw (tinyAt [0, 0] [0x000009, 0]))).w.length = 291 ∧
      (after (exec .draw (tinyAt [0, 0] [0x000009, 0]))).cur = [0x000009, 0] := by decide +kernel

/-- P3, line 4: everything is zero, one frame is sent, its length is that of zero cells. -/
theorem test_clear :
    (after (exec .clear lit)).cur = [0, 0] ∧ (after (exec .clear lit)).tgt = [0, 0] ∧
      totalNs (after (exec .clear lit)).w = 48 * 1150 + 70000 := by decide

theorem test_nopBelow : after (exec .nopBelow busy) = busy := by decide

theorem test_nopBeyond : after (exec .nopBeyond fading) = fading := by decide

theorem test_nopMalformed : after (exec .nopMalformed heldState) = heldState := by decide

/-- A step from reset with the word of CLEAR placed runs it: the frame of 42 zero pixels. -/
theorem test_step_runs_placed_word :
    (after (step (State.reset.withFetchWord 32 0xFFFFFFFE))).w.length = 2017 ∧
      (after (step (State.reset.withFetchWord 32 0xFFFFFFFE))).input = [] := by decide +kernel

/-! ### Parts -/

/-- V3: a step up, a step that lands, a step down, a step at speed 300. -/
theorem test_fadeStep :
    fadeStep 3 0 4 = 3 ∧ fadeStep 3 7 9 = 9 ∧ fadeStep 3 200 10 = 197 ∧ fadeStep 300 17 200 = 200 := by decide

/-- V4: green down, red stays, blue up. -/
theorem test_fadePixel : fadePixel 3 0x100000 0x0000FF = 0x0D0003 := by decide

/-- V4: the last row of the FADEPASS table; the test is made after the step. -/
theorem test_fadePass :
    (fadePass (tinyAt [0x000006, 0] [0x000009, 0x00FF00])).cur = [0x000009, 0x000300] ∧
      (fadePass (tinyAt [0x000006, 0] [0x000009, 0x00FF00])).nf = true ∧
      (fadePass (tinyAt [0, 0] [0x000003, 0])).nf = false := by decide

/-- V5: the length of the pixel `0x800001`, and of the frame of P6, line 2. -/
theorem test_lengths :
    totalNs (emitPixel tiny 0x800001) = 27900 ∧ totalNs (frame tiny lit.cur) = 125500 := by decide

/-- V5: the cycles of the reference times at 50 ns. -/
theorem test_cycles :
    cycles tiny 350 = 7 ∧ cycles tiny 800 = 16 ∧ cycles tiny 700 = 14 ∧ cycles tiny 600 = 12 ∧
      cycles tiny 70000 = 1400 := by decide

/-- A reset after one whole cycle of an instruction of 350 ns leaves 50 ns of it on the line. -/
theorem test_reset_cuts_instruction :
    (clockEdge resetPins { busy with t := 7 }).wPast = [.holdHigh 50] ∧
      (clockEdge resetPins busy).cur = [0, 0] ∧ (clockEdge resetPins busy).dout = false := by decide

/-! ### Witnesses: states and operands that meet the hypotheses of each statement -/

theorem test_witness_ResetZeroesEveryPixel :
    0 < State.reset.cfg.n ∧ 41 < State.reset.cfg.n ∧ resetPins.rst = true ∧ busy.cfg = lit.cfg ∧ busy ≠ lit := by decide

theorem test_witness_RstEdgeOverridesEverything :
    resetPins.rst = true ∧ (cutInstr busy).length = 1 ∧
      (⟨false, false, false, 0, some Cfg.reference⟩ : Pins).rst = false ∧ heldState.held = true := by decide

theorem test_witness_waiting : lit.waiting ∧ State.reset.waiting := ⟨⟨rfl, rfl, rfl⟩, ⟨rfl, rfl, rfl⟩⟩

theorem test_witness_StepRunsTheDecodedLine :
    ({ lit with input := [.line drawLine] } : State).waiting ∧
      ({ lit with input := [.line drawLine] } : State).input = .line drawLine :: [] := ⟨⟨rfl, rfl, rfl⟩, rfl⟩

theorem test_witness_LineWaitsWhileBusy :
    ({ busy with input := [.line drawLine] } : State).input = .line drawLine :: [] ∧ busy.ctl ≠ .idle ∧
      fading.ctl ≠ .idle := by decide

theorem test_witness_DroppedLineLeavesNoTrace :
    lit.waiting ∧ lit.storeWait = 0 ∧ errClass (decode lit.cfg unmappedLine) ≠ none ∧
      errClass (decode lit.cfg [0x35#8]) ≠ none := ⟨⟨rfl, rfl, rfl⟩, rfl, by decide, by decide⟩

theorem test_witness_DecodeOfEncodeIsIdentity :
    Instr.wf tiny (.setPixel 1 0xFFFFFF) = true ∧ Instr.wf tiny (.setTarget 1 0xFFFFFF) = true ∧
      Instr.wf tiny (.setSegTarget 0 0xFFFFFF) = true ∧ Instr.wf tiny .nopMalformed = true := by decide

theorem test_witness_DecodeIsTotalAndInRange :
    parse [0x35#8] = .error .fieldCount ∧ parse drawLine = .ok ⟨-1, 0, 0, 0⟩ := by decide

/-- The first and the last index of each class, each in one class only (30_encoding.md R97). -/
theorem test_witness_ClassifyFollowsTheCommandMap :
    classify tiny 0 0 = .setPixel 0 0 ∧ classify tiny 1 0 = .setPixel 1 0 ∧ classify tiny 2 0 = .setTarget 0 0 ∧
      classify tiny 3 0 = .setTarget 1 0 ∧ classify tiny 4 0 = .setSegTarget 0 0 ∧ classify tiny (-1) 0 = .draw ∧
      classify tiny (-2) 0 = .clear ∧ classify tiny (-3) 0 = .nopBelow ∧ classify tiny 5 0 = .nopBeyond := by decide

theorem test_witness_LeadingZerosChangeNothing :
    decLit [0x37#8] = some 7 ∧ hexLit [0x66#8, 0x46#8] = some 255 := by decide

theorem test_witness_OffGrammarLineIsDropped :
    inAlphabet 0x0A#8 = false ∧ inAlphabet 0x2B#8 = false ∧ inAlphabet 0x58#8 = false ∧
      [0x35#8, 0x20#8].count spaceByte ≠ 3 ∧ [] ∈ fields [0x35#8, 0x20#8] := by decide

theorem test_witness_ChannelAbove255DropsTheLine : 255 < 256 := by decide

/-- For the statements about any store of the right size (DRAW, CLEAR, the draw loop, the size of a DRAW's trace). -/
theorem test_witness_storeOk : lit.storeOk ∧ State.reset.storeOk := ⟨⟨rfl, rfl⟩, ⟨rfl, rfl⟩⟩

theorem test_witness_SetPixelWritesCurrentAndTarget : lit.storeOk ∧ 0 < lit.cfg.n ∧ 1 < lit.cfg.n :=
  ⟨⟨rfl, rfl⟩, by decide, by decide⟩

theorem test_witness_SetTargetWritesTargetOnly : lit.storeOk ∧ 0 < lit.cfg.n ∧ 1 < lit.cfg.n :=
  ⟨⟨rfl, rfl⟩, by decide, by decide⟩

theorem test_witness_SetSegTargetWritesTheWholeSegment : lit.storeOk ∧ lit.cfg.segs[0]? = some ⟨0, 1⟩ :=
  ⟨⟨rfl, rfl⟩, rfl⟩

theorem test_witness_NopChangesNothing :
    parse [] = .error .fieldCount ∧ parse unmappedLine = .ok ⟨5, 9, 9, 9⟩ ∧
      (2 * lit.cfg.n + lit.cfg.segs.length : Int) ≤ 5 ∧
      parse [0x2D#8, 0x33#8, 0x20#8, 0x30#8, 0x20#8, 0x30#8, 0x20#8, 0x30#8] = .ok ⟨-3, 0, 0, 0⟩ := by decide

theorem test_witness_StoreCommandsTouchOnlyTheStore :
    Instr.setTarget 1 0x090909 ≠ .draw ∧ Instr.setTarget 1 0x090909 ≠ .clear ∧
      (∀ j c, Instr.setTarget 1 0x090909 ≠ .setPixel j c) ∧
      exec (.setTarget 1 0x090909) lit = .next (tinyAt lit.cur [0, 0x090909]) ∧
      exec (.setPixel 0 0x090909) lit = .next (tinyAt [0x090909, 0x008001] [0x090909, 0x008001]) :=
  ⟨by decide, by decide, fun _ _ => nofun, rfl, rfl⟩

theorem test_witness_OutOfRangeWriteIsIgnored : lit.storeOk ∧ lit.cfg.n ≤ 2 ∧ lit.cfg.segs.length ≤ 1 :=
  ⟨⟨rfl, rfl⟩, by decide, by decide⟩

theorem test_witness_LaterSegmentWriteWins :
    State.reset.storeOk ∧ State.reset.cfg.segs[0]? = some ⟨0, 41⟩ ∧ State.reset.cfg.segs[1]? = some ⟨0, 13⟩ :=
  ⟨⟨rfl, rfl⟩, rfl, rfl⟩

theorem test_witness_SegmentRangeInsideTheStore :
    Cfg.reference.segs[2]? = some ⟨14, 27⟩ ∧ segPixels Cfg.reference 2 ≠ [] := by decide

/-- The clauses of the clamped step at their boundaries: a distance of the speed and one more, in both directions. -/
theorem test_witness_FadeStepIsTheClampedStep :
    1 ≤ 3 ∧ (((3 : Byte).toNat : Int) - (0 : Byte).toNat).natAbs ≤ 3 ∧ (3 : Int) < ((4 : Byte).toNat : Int) - (0 : Byte).toNat ∧
      ((0 : Byte).toNat : Int) - (4 : Byte).toNat < -(3 : Int) := by decide

/-- For the statements about a fade speed alone (the bound of a step, the convergence of a channel). -/
theorem test_witness_fadeSpeed : 1 ≤ tiny.fadeSpeed := by decide

theorem test_witness_FadePassStepsEveryPixel :
    (tinyAt [0, 0] [0x000004, 0]).storeOk ∧ 1 < (tinyAt [0, 0] [0x000004, 0]).cfg.n := ⟨⟨rfl, rfl⟩, by decide⟩

theorem test_witness_PassReportsMismatchByDistance :
    1 ≤ 3 ∧ ([0, 0] : List Color).length = ([0x000004, 0] : List Color).length := by decide

theorem test_witness_DrawOnAConvergedStoreIsIdempotent : lit.storeOk ∧ lit.converged := ⟨⟨rfl, rfl⟩, rfl⟩

theorem test_witness_EmitPixelMostSignificantFirst : 0 < 24 ∧ 23 < 24 := by decide

theorem test_witness_FrameInstructionByNumber : 0 < 24 * lit.cur.length ∧ 47 < 24 * lit.cur.length := by decide

/-- A state for each row of the encoder's table; the first is a request that no run reaches. -/
theorem test_witness_EncoderStepTable :
    (({ State.init tiny with ctl := .flush } : State).ctl = .flush ∧
      ({ State.init tiny with ctl := .flush } : State).ph = .idle) ∧
    (busy.ctl = .flush ∧ busy.ph = .high ∧ busy.p = 0 ∧ busy.b = 23) ∧
    ((seqRun 1 busy).ctl = .flush ∧ (seqRun 1 busy).ph = .low ∧ 0 < (seqRun 1 busy).b) ∧
    ((seqRun 47 busy).ph = .low ∧ (seqRun 47 busy).b = 0 ∧ (seqRun 47 busy).p + 1 < (seqRun 47 busy).cfg.n) ∧
    ((seqRun 95 busy).ph = .low ∧ (seqRun 95 busy).b = 0 ∧ (seqRun 95 busy).p + 1 = (seqRun 95 busy).cfg.n) ∧
    ((seqRun 96 busy).ctl = .flush ∧ (seqRun 96 busy).ph = .reset) := by decide

theorem test_witness_EncoderMachineIssuesTheFrame :
    busy.storeOk ∧ busy.ctl = .flush ∧ busy.ph = .high ∧ busy.p = 0 ∧ busy.b = 23 :=
  ⟨⟨rfl, rfl⟩, by decide, by decide, by decide, by decide⟩

/-- The invariant holds of the waiting block, of the block held in reset, in a fade pass and in a flush. -/
theorem test_witness_Inv_waiting : lit.Inv := by constructor <;> decide

theorem test_witness_Inv_held : heldState.Inv := by constructor <;> decide

theorem test_witness_Inv_fading : fading.Inv := by constructor <;> decide

theorem test_witness_Inv_busy : busy.Inv := by constructor <;> decide

theorem test_witness_EveryLineIsTakenInOrder :
    ({ lit with input := [.line drawLine, .line unmappedLine] } : State).Inv ∧
      ({ lit with input := [.line drawLine, .line unmappedLine] } : State).waiting ∧
      ∀ x ∈ ({ lit with input := [.line drawLine, .line unmappedLine] } : State).input, isLine x = true :=
  ⟨by constructor <;> decide, ⟨rfl, rfl, rfl⟩, by decide⟩

theorem test_witness_SequencerRefinesExec :
    lit.Inv ∧ lit.waiting ∧ Instr.wf lit.cfg .draw = true ∧ Instr.wf lit.cfg (.setSegTarget 0 0) = true :=
  ⟨test_witness_Inv_waiting, ⟨rfl, rfl, rfl⟩, rfl, rfl⟩

theorem test_witness_BusyBlockBecomesIdle : fading.Inv ∧ fading.ctl ≠ .idle := ⟨test_witness_Inv_fading, by decide⟩

theorem test_witness_EveryStepKeepsTheInvariant :
    busy.Inv ∧ step busy = .next (seqStep busy) ∧ seqStep busy ≠ busy := ⟨test_witness_Inv_busy, rfl, by decide⟩

theorem test_witness_TraceOnlyGrows :
    (busy.Inv ∧ step busy = .next (seqStep busy)) ∧
      ({ lit with input := [.line unmappedLine] } : State).waiting ∧
      decode lit.cfg unmappedLine ≠ .draw ∧ decode lit.cfg unmappedLine ≠ .clear ∧
      step { lit with input := [.line unmappedLine] } = .next lit :=
  ⟨⟨test_witness_Inv_busy, rfl⟩, ⟨rfl, rfl, rfl⟩, by decide, by decide, rfl⟩

theorem test_witness_ConfigurationIsStatic :
    step { heldState with input := [.edge ⟨false, false, false, 0, some Cfg.reference⟩] } = .next State.reset := rfl

/-- 350 ns at 50 ns a cycle: seven edges. -/
theorem test_witness_InstructionTakesItsCycles :
    busy.Inv ∧ busy.ctl = .flush ∧ busy.t = curCycles busy ∧ (List.replicate 7 quiet).length = curCycles busy ∧
      ∀ q ∈ List.replicate 7 quiet, q.rst = false :=
  ⟨test_witness_Inv_busy, by decide, by decide, by decide, by decide⟩

theorem test_witness_CyclesRoundUp : 1 ≤ 1 ∧ cycles tiny 1 = 1 ∧ cycles tiny 50 = 1 ∧ cycles tiny 51 = 2 := by decide

theorem test_witness_PortBytesFormALine :
    lit.waiting ∧ lit.storeWait = 0 ∧
      (∀ r ∈ [quiet, ⟨false, true, false, 0x35#8, none⟩], r.rst = false ∧ (r.valid = true → r.last = false)) ∧
      (⟨false, true, true, 0x30#8, none⟩ : Pins).last = true := ⟨⟨rfl, rfl, rfl⟩, rfl, by decide, rfl⟩

theorem test_witness_BusyBlockTakesNoByte :
    busy.ctl ≠ .idle ∧ busy.held = false ∧ quiet.rst = false ∧ (⟨false, true, true, 0x30#8, none⟩ : Pins).rst = false := by
  decide

theorem test_witness_StoreCommandHoldsReadyLow :
    lit.waiting ∧ isStoreCmd (.setTarget 1 0x090909) = true ∧
      (List.replicate (storeCycles lit.cfg) quiet).length = storeCycles lit.cfg ∧
      ∀ q ∈ List.replicate (storeCycles lit.cfg) quiet, q.rst = false :=
  ⟨⟨rfl, rfl, rfl⟩, rfl, List.length_replicate, fun _ h => by rw [List.eq_of_mem_replicate h]; rfl⟩

theorem test_witness_FadePassTakesItsCycles :
    fading.Inv ∧ fading.ctl = .fade ∧ fading.fadeCnt = 0 ∧
      (List.replicate (fadeCycles fading.cfg) quiet).length = fadeCycles fading.cfg ∧
      ∀ q ∈ List.replicate (fadeCycles fading.cfg) quiet, q.rst = false :=
  ⟨test_witness_Inv_fading, by decide, by decide, List.length_replicate,
    fun _ h => by rw [List.eq_of_mem_replicate h]; rfl⟩

/-- V1, `5 0xFF 0xff 0xFf`: hexadecimal digits in both cases and mixed. -/
theorem test_decode_hexadecimal :
    decode Cfg.reference
        [0b00110101#8, 0b00100000#8, 0b00110000#8, 0b01111000#8, 0b01000110#8, 0b01000110#8, 0b00100000#8,
         0b00110000#8, 0b01111000#8, 0b01100110#8, 0b01100110#8, 0b00100000#8, 0b00110000#8, 0b01111000#8,
         0b01000110#8, 0b01100110#8]
      = .setPixel 5 0xFFFFFF := by decide

/-- Digits at the boundary of the range: `Ff` is 255, `100` is 256 (30_encoding.md R87, R88). -/
theorem test_witness_HexadecimalChannelReadsItsDigits :
    [(true, (15 : Fin 16)), (false, 15)] ≠ [] ∧ hexValue [(true, 15), (false, 15)] = 255 ∧
      hexText [(true, 15), (false, 15)] = [0x30#8, 0x78#8, 0x46#8, 0x66#8] ∧
      hexValue [(true, 1), (true, 0), (true, 0)] = 256 := by decide

/-- A configuration with another segment table and the same five durations. -/
theorem test_witness_EncoderReadsOnlyCurrentColours :
    Cfg.reference.t1h = busy.cfg.t1h ∧ Cfg.reference.t1l = busy.cfg.t1l ∧ Cfg.reference.t0h = busy.cfg.t0h ∧
      Cfg.reference.t0l = busy.cfg.t0l ∧ Cfg.reference.treset = busy.cfg.treset ∧
      Cfg.reference.segs ≠ busy.cfg.segs := by decide

end Sys2Proof.Tests
end

/-! PROOFS. The scope of the block (00_scope.md): the trace only grows (R16) and the configuration is static (R13). First
what a step and a clock edge can be and what becomes of the trace, then the statements. -/

namespace Sys2Proof.Machine

/-! ### A step and a clock edge by their cases -/

/-- Whatever a step answers, it is one step of the running command, a clock edge, the release of a held block by a
pending line, or the run of a line's command. -/
theorem step_cases (s t : State) (h : step s = .next t) :
    t = seqStep s ∨
    (∃ q rest, s.input = .edge q :: rest ∧ t = clockEdge q { s with input := rest }) ∨
    (s.ctl = .idle ∧ s.held = true ∧ t = release none s) ∨
    (∃ line rest, s.input = .line line :: rest ∧ s.ctl = .idle ∧ s.held = false ∧
      exec (lineInstr s line) (lineTaken rest s) = .next t) := by
  cases hi : s.input with
  | nil =>
    rw [step_nothing s hi] at h
    cases h
    exact .inl rfl
  | cons i rest =>
    cases i with
    | edge q =>
      rw [step_edge s q rest hi] at h
      cases h
      exact .inr (.inl ⟨q, rest, rfl, rfl⟩)
    | line line =>
      by_cases hc : s.ctl = .idle
      · cases hh : s.held with
        | true =>
          rw [step_line_held s line rest hi hc hh] at h
          cases h
          exact .inr (.inr (.inl ⟨hc, rfl, rfl⟩))
        | false =>
          rw [step_line_idle s line rest hi hc hh] at h
          exact .inr (.inr (.inr ⟨line, rest, rfl, hc, rfl, h⟩))
      · rw [step_line_busy s line rest hi hc] at h
        cases h
        exact .inl rfl

/-- An edge with `rst = 1` (70_reset_and_hazards.md R251). -/
theorem clockEdge_rst (q : Pins) (s : State) (hr : q.rst = true) : clockEdge q s = resetEdge s := if_pos hr

/-- The first edge with `rst = 0` after reset samples the configuration and is then an edge like any other (log 8). -/
theorem clockEdge_held (q : Pins) (s : State) (hr : q.rst = false) (hh : s.held = true) :
    clockEdge q s = runEdge q (release q.cfg s) := by
  simp [clockEdge, hr, hh]

/-- An edge with `rst = 0` of a block out of reset. -/
theorem clockEdge_running (q : Pins) (s : State) (hr : q.rst = false) (hh : s.held = false) :
    clockEdge q s = runEdge q s := by
  simp [clockEdge, hr, hh]

/-! ### What becomes of the trace -/

/-- What keeps the trace before the reset and extends the trace since extends the whole trace. -/
theorem told_prefix (s t : State) (hPast : t.wPast = s.wPast) (hw : s.w <+: t.w) : s.told <+: t.told := by
  rw [State.told, State.told, hPast]
  exact (List.prefix_append_right_inj s.wPast).2 hw

/-- A reset keeps what was told, and may add the instruction it cuts (70_reset_and_hazards.md R252). -/
@[simp] theorem told_resetEdge (s : State) : (resetEdge s).told = s.told ++ cutInstr s := by
  simp [State.told, resetEdge, State.init]

/-- A block held in reset has issued nothing since. -/
theorem State.Inv.w_eq_nil_of_held {s : State} (hs : s.Inv) (hh : s.held = true) : s.w = [] := by
  rw [hs.heldReset hh]; rfl

/-- The release of reset drops the trace since the reset, so it keeps the whole trace where that is still empty. -/
theorem told_release (c : Option Cfg) (s : State) (hw : s.w = []) : (release c s).told = s.told := by
  rw [State.told, State.told, hw]; rfl

theorem told_prefix_seqStep (s : State) : s.told <+: (seqStep s).told := by
  obtain ⟨-, -, -, -, -, -, hPast, hw⟩ := seqStep_frame s
  exact told_prefix s _ hPast hw

theorem told_prefix_runEdge (q : Pins) (s : State) : s.told <+: (runEdge q s).told := by
  obtain ⟨-, -, -, hPast, hw⟩ := runEdge_frame q s
  exact told_prefix s _ hPast hw

theorem told_prefix_exec (i : Instr) (s t : State) (h : exec i s = .next t) : s.told <+: t.told := by
  obtain ⟨-, -, -, -, -, hPast, hw⟩ := exec_frame i s t h
  exact told_prefix s t hPast hw

/-- A clock edge extends the whole trace, provided a held block has an empty trace since the reset. -/
theorem told_prefix_clockEdge (q : Pins) (s : State) (hw : s.held = true → s.w = []) :
    s.told <+: (clockEdge q s).told := by
  cases hr : q.rst with
  | true =>
    rw [clockEdge_rst q s hr, told_resetEdge]
    exact List.prefix_append _ _
  | false =>
    cases hh : s.held with
    | true =>
      rw [clockEdge_held q s hr hh, ← told_release q.cfg s (hw hh)]
      exact told_prefix_runEdge q _
    | false =>
      rw [clockEdge_running q s hr hh]
      exact told_prefix_runEdge q s

/-- The taking of a line, before its command runs, is no part of the trace. -/
@[simp] theorem told_lineTaken (rest : List Input) (s : State) : (lineTaken rest s).told = s.told := rfl

/-- No command but DRAW and CLEAR calls the sink (40_store_commands.md R125). -/
theorem told_exec_of_not_blocking (i : Instr) (s t : State) (hd : i ≠ .draw) (hc : i ≠ .clear)
    (h : exec i s = .next t) : t.told = s.told := by
  cases i with
  | setPixel i c => cases h; simp [State.told, setPixel]
  | setTarget i c => cases h; simp [State.told, setTarget]
  | setSegTarget g c => cases h; simp [State.told, setSegTarget, memWriteAll_eq]
  | draw => exact absurd rfl hd
  | clear => exact absurd rfl hc
  | nopBelow => cases h; rfl
  | nopBeyond => cases h; rfl
  | nopMalformed => cases h; rfl

/-- A step from a state of the invariant extends the whole trace. -/
theorem told_prefix_step (s t : State) (hs : s.Inv) (h : step s = .next t) : s.told <+: t.told := by
  rcases step_cases s t h with rfl | ⟨q, rest, -, rfl⟩ | ⟨-, hh, rfl⟩ | ⟨line, rest, -, -, -, he⟩
  · exact told_prefix_seqStep s
  · exact told_prefix_clockEdge q { s with input := rest } hs.w_eq_nil_of_held
  · rw [told_release none s (hs.w_eq_nil_of_held hh)]
  · exact told_prefix_exec _ (lineTaken rest s) t he

/-- A waiting block decodes a pending line and runs its command (20_memory.md R65). -/
theorem step_line_waiting (s : State) (line : List Byte) (rest : List Input) (hi : s.input = .line line :: rest)
    (hs : s.waiting) : step s = exec (decode s.cfg line) (lineTaken rest s) := by
  obtain ⟨hc, hd, hh⟩ := hs
  rw [step_line_idle s line rest hi hc hh, lineInstr, if_pos hd]

/-- Settles O51: each kind of step extends the whole trace, and a line's step is the run of its command. -/
theorem traceOnlyGrows : Obligations.TraceOnlyGrows := by
  refine ⟨told_prefix_step, fun s t line rest hi hw hd hc h => ?_⟩
  rw [step_line_waiting s line rest hi hw] at h
  rw [told_exec_of_not_blocking _ _ t hd hc h, told_lineTaken]

/-! ### The configuration -/

/-- The configuration after a clock edge: the offered one at the release of reset, else the one before (R13). -/
theorem clockEdge_cfg (q : Pins) (s : State) :
    (clockEdge q s).cfg = if q.rst = false ∧ s.held = true then q.cfg.getD s.cfg else s.cfg := by
  cases hr : q.rst with
  | true =>
    rw [clockEdge_rst q s hr, if_neg (by simp)]
    rfl
  | false =>
    cases hh : s.held with
    | true =>
      rw [clockEdge_held q s hr hh, (runEdge_frame q _).1, if_pos ⟨rfl, rfl⟩]
      rfl
    | false => rw [clockEdge_running q s hr hh, (runEdge_frame q s).1, if_neg (by simp)]

/-- Settles O52: of the four kinds of step only a clock edge can change the configuration, and it does so only at the
release of reset. -/
theorem configurationIsStatic : Obligations.ConfigurationIsStatic := by
  intro s t h
  rcases step_cases s t h with rfl | ⟨q, rest, hi, rfl⟩ | ⟨-, -, rfl⟩ | ⟨line, rest, -, -, -, he⟩
  · obtain ⟨-, hcfg, -⟩ := seqStep_frame s
    exact .inl hcfg
  · have hcfg := clockEdge_cfg q { s with input := rest }
    by_cases hrel : q.rst = false ∧ s.held = true
    · rw [if_pos hrel] at hcfg
      cases ho : q.cfg with
      | none => exact .inl (by rw [hcfg, ho]; rfl)
      | some c => exact .inr ⟨q, rest, hi, hrel.1, hrel.2, by rw [hcfg, ho]; rfl⟩
    · exact .inl (hcfg.trans (if_neg hrel))
  · exact .inl rfl
  · exact .inl (exec_frame _ _ _ he).1

end Sys2Proof.Machine

/-! PROOFS. The state (10_state.md): its reset values (R38 to R40) and the invariant of the block, which holds at reset
and which every step keeps (R20, R21, R27 to R29, R34, R37). The step lemma goes by what the step is: the sequencer's
own step, a whole command, a clock edge, a reset. -/

namespace Sys2Proof.Machine

/-! ### The reset state -/

/-- A register of the reset state reads 0 (R38). -/
theorem memRead_init (sp : Space) (i : Nat) (c : Cfg) : memRead sp i (State.init c) = 0 := by
  have hbank : bank sp (State.init c) = List.replicate c.n 0 := by cases sp <;> rfl
  rw [memRead, hbank, List.getD_eq_getElem?_getD, List.getElem?_replicate]
  split <;> rfl

/-- Settles O1: an edge with `rst = 1` gives the reset state of the configuration, but for the two records. -/
theorem resetZeroesEveryPixel : Obligations.ResetZeroesEveryPixel := by
  refine ⟨fun sp i _ => memRead_init sp i _, fun q s sp hr => ?_, fun q₁ q₂ s₁ s₂ h₁ h₂ hcfg => ?_⟩
  · rw [clockEdge_rst q s hr]
    cases sp <;> rfl
  · rw [clockEdge_rst q₁ s₁ h₁, clockEdge_rst q₂ s₂ h₂, resetEdge, resetEdge, hcfg]

/-- Settles O2: the reset values, read off the reset state. -/
theorem resetLeavesTheBlockIdle : Obligations.ResetLeavesTheBlockIdle :=
  ⟨rfl, rfl, rfl, rfl, rfl, rfl, rfl, rfl, rfl, rfl⟩

/-- The reset state meets the invariant, held or released, whatever is recorded of the outside, provided the past
durations are at least 1. -/
theorem inv_init (c : Cfg) (held : Bool) (past : List Sink) (pending : List Input)
    (hpast : ∀ x ∈ past, 1 ≤ sinkDur x) :
    State.Inv { State.init c with held := held, wPast := past, input := pending } where
  curLen := List.length_replicate
  tgtLen := List.length_replicate
  pRange := (cfg_legal c).1
  bRange := Nat.le_refl 23
  pair := rfl
  level := rfl
  phase := ⟨fun _ => nofun, fun _ => rfl⟩
  rest _ := ⟨rfl, rfl⟩
  gap := nofun
  timerRuns := nofun
  timerRests _ := rfl
  nfIdle _ := rfl
  nfDraw := nofun
  clearing := nofun
  fadeRests _ := rfl
  decRests _ := rfl
  decRange := ⟨Nat.zero_le 3, rfl⟩
  waitRests _ := rfl
  heldReset h := by cases h; rfl
  durations := by simpa [State.init] using hpast

/-- Settles O49: the case of a released reset state with no past and nothing pending. -/
theorem invariantHoldsAtReset : Obligations.InvariantHoldsAtReset :=
  ⟨rfl, fun c => inv_init c false [] [] (by simp)⟩

/-! ### The durations told to the sink (43_pulse_encoder.md R180) -/

/-- Every legal clock period is at least 1 (00_scope.md R12). -/
theorem one_le_clkPeriodNs (c : Cfg) : 1 ≤ c.clkPeriodNs := by
  obtain ⟨-, -, -, -, -, h⟩ := cfg_legal c
  exact h

theorem one_le_highDur (c : Cfg) (v : Bool) : 1 ≤ highDur c v := by
  obtain ⟨-, -, -, ⟨h1, -, h0, -⟩, -, -⟩ := cfg_legal c
  cases v
  · exact h0
  · exact h1

theorem one_le_lowDur (c : Cfg) (v : Bool) : 1 ≤ lowDur c v := by
  obtain ⟨-, -, -, ⟨-, h1, -, h0⟩, -, -⟩ := cfg_legal c
  cases v
  · exact h0
  · exact h1

theorem one_le_treset (c : Cfg) : 1 ≤ c.treset := by
  obtain ⟨-, -, -, -, h, -⟩ := cfg_legal c
  exact Nat.one_le_of_lt h

/-- The encoder's present instruction has a duration of at least 1. -/
theorem one_le_sinkDur_of_curInstr (s : State) (x : Sink) (h : curInstr s = some x) : 1 ≤ sinkDur x := by
  unfold curInstr at h
  split at h <;> cases h
  · exact one_le_highDur _ _
  · exact one_le_lowDur _ _
  · exact one_le_treset _

/-- So has every instruction of a frame. -/
theorem one_le_sinkDur_of_mem_frame (c : Cfg) (cur : List Color) : ∀ x ∈ frame c cur, 1 ≤ sinkDur x := by
  intro x hx
  simp only [frame, emitPixel, emitBit, List.mem_append, List.mem_flatMap, List.mem_cons, List.not_mem_nil,
    or_false] at hx
  rcases hx with ⟨v, -, b, -, rfl | rfl⟩ | rfl
  · exact one_le_highDur _ _
  · exact one_le_lowDur _ _
  · exact one_le_treset _

@[simp] theorem sinkDur_sinkCut (d : Nat) (x : Sink) : sinkDur (sinkCut d x) = d := by cases x <;> rfl

/-- A reset inside a running instruction leaves at least one whole cycle of it (70_reset_and_hazards.md R252). -/
theorem State.Inv.one_le_sinkDur_of_mem_cutInstr {s : State} (hs : s.Inv) : ∀ x ∈ cutInstr s, 1 ≤ sinkDur x := by
  intro x hx
  unfold cutInstr at hx
  cases hi : curInstr s with
  | none => simp [hi] at hx
  | some y =>
    have hflush : s.ctl = .flush := by
      have hph := curInstr_isSome s
      rw [hi, eq_comm, Option.isSome_some, decide_eq_true_eq, ne_eq, hs.phase, not_not] at hph
      exact hph
    obtain ⟨-, ht⟩ := hs.timerRuns hflush
    have hcycle : 1 ≤ (curCycles s + 1 - s.t) * s.cfg.clkPeriodNs := Nat.mul_pos (by omega) (one_le_clkPeriodNs s.cfg)
    simp only [hi, List.mem_singleton] at hx
    rw [hx, sinkDur_sinkCut]
    exact le_min (one_le_sinkDur_of_curInstr s y hi) hcycle

/-! ### A block that is engaged: out of reset, with no line in progress -/

/-- What holds of a block that applies a command, from the line's last byte to the command's end, whatever the sequencer
and the encoder do. -/
structure State.Engaged (s : State) : Prop where
  curLen : s.cur.length = s.cfg.n
  tgtLen : s.tgt.length = s.cfg.n
  decStart : s.dec = scanStart
  noWait : s.storeWait = 0
  running : s.held = false
  durations : ∀ x ∈ s.wPast ++ s.w, 1 ≤ sinkDur x

/-- Held in reset, the block is idle. -/
theorem State.Inv.running_of_busy {s : State} (hs : s.Inv) (hc : s.ctl ≠ .idle) : s.held = false := by
  by_contra hh
  exact hc (congrArg State.ctl (hs.heldReset (Bool.eq_true_of_not_eq_false hh)))

theorem State.Inv.engaged_of_busy {s : State} (hs : s.Inv) (hc : s.ctl ≠ .idle) : s.Engaged :=
  { hs with decStart := hs.decRests hc, noWait := hs.waitRests hc, running := hs.running_of_busy hc }

theorem State.Inv.engaged_of_waiting {s : State} (hs : s.Inv) (hw : s.waiting) (h0 : s.storeWait = 0) :
    s.Engaged := by
  obtain ⟨-, hdec, hheld⟩ := hw
  exact { hs with decStart := hdec, noWait := h0, running := hheld }

theorem State.Engaged.setOp {s : State} (hs : s.Engaged) (o : Op) : (setOp o s).Engaged := { hs with }

theorem State.Engaged.setCtl {s : State} (hs : s.Engaged) (c : Ctl) : (setCtl c s).Engaged := { hs with }

theorem State.Engaged.issueAll {s : State} (hs : s.Engaged) {xs : List Sink} (hx : ∀ x ∈ xs, 1 ≤ sinkDur x) :
    (issueAll xs s).Engaged :=
  { hs with
    durations := by
      rw [issueAll_wPast, issueAll_w, ← List.append_assoc]
      exact List.forall_mem_append.2 ⟨hs.durations, hx⟩ }

theorem State.Engaged.flush {s : State} (hs : s.Engaged) : (flush s).Engaged :=
  { hs.issueAll (one_le_sinkDur_of_mem_frame s.cfg s.cur) with }

theorem State.Engaged.fadePass {s : State} (hs : s.Engaged) : (fadePass s).Engaged :=
  { hs with curLen := (length_fadeColors _ _ _ (hs.curLen.trans hs.tgtLen.symm)).trans hs.curLen }

theorem State.Engaged.drawPass {s : State} (hs : s.Engaged) : (drawPass s).Engaged :=
  ((hs.setCtl .fade).fadePass.setCtl .flush).flush

theorem State.Engaged.clearStore {s : State} (hs : s.Engaged) : (clearStore s).Engaged := by
  rw [clearStore_eq s hs.curLen hs.tgtLen]
  exact { hs with curLen := List.length_replicate, tgtLen := List.length_replicate }

theorem State.Engaged.decRange {s : State} (hs : s.Engaged) : s.dec.tok ≤ 3 ∧ s.dec.v.length = 4 := by
  rw [hs.decStart]
  exact ⟨Nat.zero_le 3, rfl⟩

theorem State.Engaged.not_held {s : State} (hs : s.Engaged) : s.held ≠ true := by simp [hs.running]

/-- Outside a flush, with the encoder at rest, the invariant asks for little more. -/
theorem State.Engaged.inv_encRest {s : State} (hs : s.Engaged) (hpair : pairOk s.ctl s.op = true)
    (hc : s.ctl ≠ .flush) (hnf : s.ctl = .idle → s.nf = false) (hf : s.ctl ≠ .fade → s.fadeCnt = 0) :
    (encRest s).Inv where
  curLen := hs.curLen
  tgtLen := hs.tgtLen
  pRange := (cfg_legal s.cfg).1
  bRange := Nat.le_refl 23
  pair := hpair
  level := rfl
  phase := ⟨fun _ => hc, fun _ => rfl⟩
  rest _ := ⟨rfl, rfl⟩
  gap := nofun
  timerRuns h := absurd h hc
  timerRests _ := rfl
  nfIdle := hnf
  nfDraw h := absurd h hc
  clearing h := absurd h hc
  fadeRests := hf
  decRests _ := hs.decStart
  decRange := hs.decRange
  waitRests _ := hs.noWait
  heldReset h := absurd h hs.not_held
  durations := hs.durations

/-- At the end of a command the block is idle. -/
theorem State.Engaged.inv_seqIdle_encRest {s : State} (hs : s.Engaged) (hnf : s.nf = false) (hf : s.fadeCnt = 0) :
    (seqIdle (encRest s)).Inv :=
  State.Engaged.inv_encRest (s := seqIdle s) { hs with } rfl nofun (fun _ => hnf) (fun _ => hf)

/-- A DRAW about to make a pass (41_draw_clear.md R150). -/
theorem State.Engaged.inv_beginFade {s : State} (hs : s.Engaged) (hop : s.op = .draw) :
    State.Inv { Machine.setCtl .fade (encRest s) with fadeCnt := 0 } :=
  State.Engaged.inv_encRest (s := { Machine.setCtl .fade s with fadeCnt := 0 }) { hs with }
    (by rw [Machine.setCtl_ctl, Machine.setCtl_op, hop]; rfl) nofun nofun (fun _ => rfl)

/-- Outside a flush the encoder is at rest already. -/
theorem State.Inv.encRest_eq {s : State} (hs : s.Inv) (hc : s.ctl ≠ .flush) : encRest s = s := by
  have hph : s.ph = .idle := hs.phase.2 hc
  obtain ⟨hp, hb⟩ := hs.rest hph
  have hd : s.dout = false := by rw [hs.level, hph]; rfl
  have ht : s.t = 0 := hs.timerRests hc
  obtain ⟨cur, tgt, nf, ctl, op, p, b, ph, dout, t, fadeCnt, dec, cfg, held, storeWait, w, wPast, input⟩ := s
  subst hph hp hb hd ht
  rfl

/-! ### The flush, wherever the encoder stands in it -/

/-- What holds through a whole flush. -/
structure State.Flushing (s : State) : Prop extends s.Engaged where
  inFlush : s.ctl = .flush
  fadeRests : s.fadeCnt = 0
  flags : (s.op = .draw ∧ s.nf = needsFade s.cur s.tgt) ∨
    (s.op = .clear ∧ s.nf = false ∧ s.cur = List.replicate s.cfg.n 0 ∧ s.tgt = List.replicate s.cfg.n 0)

theorem State.Inv.flushing {s : State} (hs : s.Inv) (hc : s.ctl = .flush) : s.Flushing where
  toEngaged := hs.engaged_of_busy (by rw [hc]; nofun)
  inFlush := hc
  fadeRests := hs.fadeRests (by rw [hc]; nofun)
  flags := by
    have hpair := hs.pair
    cases ho : s.op with
    | none => rw [hc, ho] at hpair; cases hpair
    | draw => exact .inl ⟨rfl, hs.nfDraw hc ho⟩
    | clear => exact .inr ⟨rfl, hs.clearing hc ho⟩

theorem State.Flushing.issue {s : State} (hs : s.Flushing) (x : Sink) (hx : 1 ≤ sinkDur x) : (issue x s).Flushing :=
  { hs with toEngaged := hs.toEngaged.issueAll (xs := [x]) (by simpa using hx) }

/-- At every position of the encoder the flush meets the invariant, the timer just loaded (43_pulse_encoder.md R205). -/
theorem State.Flushing.inv_encAt {s : State} (hs : s.Flushing) {ph : Phase} {p b : Nat} (hph : ph ≠ .idle)
    (hp : p < s.cfg.n) (hb : b ≤ 23) (hgap : ph = .reset → p + 1 = s.cfg.n ∧ b = 0) :
    (loadTimer (encAt ph p b s)).Inv where
  curLen := hs.curLen
  tgtLen := hs.tgtLen
  pRange := hp
  bRange := hb
  pair := by
    rw [loadTimer_ctl, loadTimer_op, encAt_ctl, encAt_op, hs.inFlush]
    obtain ⟨ho, -⟩ | ⟨ho, -⟩ := hs.flags <;> rw [ho] <;> rfl
  level := rfl
  phase := ⟨fun h => absurd h hph, fun h => absurd hs.inFlush h⟩
  rest h := absurd h hph
  gap := hgap
  timerRuns _ := by
    rw [curCycles_loadTimer, loadTimer_t, encAt_ctl, if_pos hs.inFlush]
    exact ⟨one_le_curCycles _ hph, Nat.le_refl _⟩
  timerRests h := absurd hs.inFlush h
  nfIdle h := absurd (hs.inFlush.symm.trans h) nofun
  nfDraw _ ho := by
    obtain ⟨-, hnf⟩ | ⟨hclear, -⟩ := hs.flags
    · exact hnf
    · exact absurd (hclear.symm.trans ho) nofun
  clearing _ ho := by
    obtain ⟨hdraw, -⟩ | ⟨-, hzero⟩ := hs.flags
    · exact absurd (hdraw.symm.trans ho) nofun
    · exact hzero
  fadeRests _ := hs.fadeRests
  decRests _ := hs.decStart
  decRange := hs.decRange
  waitRests _ := hs.noWait
  heldReset h := absurd h hs.not_held
  durations := hs.durations

/-- The start of a frame (43_pulse_encoder.md R191). -/
theorem State.Flushing.inv_startFlush {s : State} (hs : (setCtl .flush s).Flushing) : (startFlush s).Inv :=
  hs.inv_encAt nofun (cfg_legal s.cfg).1 (Nat.le_refl 23) nofun

/-- After a cell's low time the encoder stands at a legal position (43_pulse_encoder.md R193 to R195). -/
theorem State.Flushing.inv_afterLow {s : State} (hs : s.Flushing) (hp : s.p < s.cfg.n) (hb : s.b ≤ 23) :
    (loadTimer (afterLow s)).Inv := by
  by_cases hbit : 0 < s.b
  · rw [afterLow_bit s hbit]
    exact hs.inv_encAt nofun hp (by omega) nofun
  · by_cases hpix : s.p + 1 < s.cfg.n
    · rw [afterLow_pixel s hbit hpix]
      exact hs.inv_encAt nofun hpix (Nat.le_refl 23) nofun
    · rw [afterLow_gap s hbit hpix]
      exact hs.inv_encAt nofun hp hb (fun _ => by omega)

/-- At the end of its frame a DRAW makes another pass if the last one left a mismatch, else the block is idle. -/
theorem State.Flushing.inv_gapDone {s : State} (hs : s.Flushing) : (gapDone (encRest s)).Inv := by
  unfold gapDone
  split
  next h => exact hs.inv_beginFade h.1
  next h =>
    refine hs.inv_seqIdle_encRest ?_ hs.fadeRests
    obtain ⟨hdraw, -⟩ | ⟨-, hnf, -⟩ := hs.flags
    · exact Bool.eq_false_of_not_eq_true fun hnf => h ⟨hdraw, hnf⟩
    · exact hnf

/-- The flush of a CLEAR, once the store is zeroed (41_draw_clear.md R146). -/
theorem State.Engaged.flushing_clearStore {s : State} (hs : s.Engaged) (hop : s.op = .clear) (hf : s.fadeCnt = 0) :
    (Machine.setCtl .flush (Machine.clearStore s)).Flushing := by
  have hzeroed := hs.clearStore.setCtl .flush
  rw [clearStore_eq s hs.curLen hs.tgtLen] at hzeroed ⊢
  exact { hzeroed with inFlush := rfl, fadeRests := hf, flags := .inr ⟨hop, rfl, rfl, rfl⟩ }

/-! ### A step of the sequencer -/

/-- One sink instruction (43_pulse_encoder.md R192 to R196). -/
theorem State.Inv.encStep {s : State} (hs : s.Inv) (hc : s.ctl = .flush) : (encStep s).Inv := by
  have hf := hs.flushing hc
  unfold Machine.encStep
  split
  next hph => exact absurd hc (hs.phase.1 hph)
  next => exact (hf.issue (.holdHigh _) (one_le_highDur _ _)).inv_encAt nofun hs.pRange hs.bRange nofun
  next => exact (hf.issue (.holdLow _) (one_le_lowDur _ _)).inv_afterLow hs.pRange hs.bRange
  next => exact (hf.issue (.holdLow _) (one_le_treset _)).inv_gapDone

theorem pairOk_fade {o : Op} : pairOk .fade o = true ↔ o = .draw := by cases o <;> decide

/-- A fade pass, after which the frame starts (41_draw_clear.md R140, R150). -/
theorem State.Inv.startFlush_fadePass {s : State} (hs : s.Inv) (hc : s.ctl = .fade) :
    (startFlush (fadePass s)).Inv := by
  have hop : s.op = .draw := pairOk_fade.1 (hc ▸ hs.pair)
  exact State.Flushing.inv_startFlush
    { (hs.engaged_of_busy (by rw [hc]; nofun)).fadePass.setCtl .flush with
      inFlush := rfl, fadeRests := rfl, flags := .inl ⟨hop, rfl⟩ }

/-- A step of the running command keeps the invariant. -/
theorem State.Inv.seqStep {s : State} (hs : s.Inv) : (seqStep s).Inv := by
  unfold Machine.seqStep
  split
  next => exact hs
  next hc => exact hs.startFlush_fadePass hc
  next hc => exact hs.encStep hc

/-! ### A command -/

/-- An idle block out of reset may have any store of the right size (40_store_commands.md R125). -/
theorem State.Inv.withStore {s : State} (hs : s.Inv) (hc : s.ctl = .idle) (hh : s.held = false) {cur tgt : List Color}
    (hcur : cur.length = s.cfg.n) (htgt : tgt.length = s.cfg.n) : State.Inv { s with cur := cur, tgt := tgt } := by
  have hflush : s.ctl ≠ .flush := by rw [hc]; nofun
  exact { hs with
    curLen := hcur
    tgtLen := htgt
    timerRuns := fun h => absurd h hflush
    nfDraw := fun h => absurd h hflush
    clearing := fun h => absurd h hflush
    heldReset := fun h => absurd (hh.symm.trans h) nofun }

theorem State.Inv.memWrite {s : State} (hs : s.Inv) (hc : s.ctl = .idle) (hh : s.held = false) (sp : Space) (i : Nat)
    (v : Color) : (memWrite sp i v s).Inv := by
  cases sp with
  | cur => exact hs.withStore hc hh ((List.length_set ..).trans hs.curLen) hs.tgtLen
  | tgt => exact hs.withStore hc hh hs.curLen ((List.length_set ..).trans hs.tgtLen)

theorem State.Inv.memWriteAll {s : State} (hs : s.Inv) (hc : s.ctl = .idle) (hh : s.held = false) (sp : Space)
    (is : List Nat) (v : Color) : (memWriteAll sp is v s).Inv := by
  induction is generalizing s with
  | nil => exact hs
  | cons i is ih => exact ih (hs.memWrite hc hh sp i v) (by simpa using hc) (by simpa using hh)

/-- The start of a command in a block that waits (41_draw_clear.md R150). -/
theorem State.Inv.beginCmd {s : State} (hs : s.Inv) (hw : s.waiting) (h0 : s.storeWait = 0) (i : Instr) :
    (beginCmd i s).Inv := by
  have he : s.Engaged := hs.engaged_of_waiting hw h0
  obtain ⟨hc, -, hh⟩ := hw
  cases i with
  | setPixel i v => exact (hs.memWrite hc hh .cur i v).memWrite (by simpa using hc) (by simpa using hh) .tgt i v
  | setTarget i v => exact hs.memWrite hc hh .tgt i v
  | setSegTarget g v => exact hs.memWriteAll hc hh .tgt (segPixels s.cfg g) v
  | draw =>
    have hrest : encRest (setOp .draw s) = setOp .draw s :=
      congrArg (setOp .draw) (hs.encRest_eq (by rw [hc]; nofun))
    have hfade := (he.setOp .draw).inv_beginFade rfl
    rw [hrest] at hfade
    exact hfade
  | clear => exact ((he.setOp .clear).flushing_clearStore rfl (hs.fadeRests (by rw [hc]; nofun))).inv_startFlush
  | nopBelow => exact hs
  | nopBeyond => exact hs
  | nopMalformed => exact hs

/-- The draw loop stops after a pass that leaves no mismatch, if it is given enough passes for the distance
(41_draw_clear.md R142). -/
theorem drawLoop_ends (k : Nat) (s : State) (hs : s.Engaged)
    (hd : storeDist s.cur s.tgt ≤ (k + 1) * s.cfg.fadeSpeed) :
    ∃ u : State, u.Engaged ∧ drawLoop (k + 1) s = drawPass u ∧ (drawPass u).nf = false := by
  induction k generalizing s with
  | zero =>
    have hnf : (drawPass s).nf = false := by
      rw [drawPass_nf_eq, decide_eq_false_iff_not]
      omega
    exact ⟨s, hs, by rw [drawLoop, hnf]; rfl, hnf⟩
  | succ k ih =>
    rw [drawLoop]
    split
    next =>
      refine ih (drawPass s) hs.drawPass ?_
      rw [drawPass_cur, drawPass_tgt, drawPass_cfg, storeDist_fadeColors]
      rw [Nat.succ_mul] at hd
      omega
    next hnf => exact ⟨s, hs, rfl, Bool.eq_false_of_not_eq_true hnf⟩

/-- A DRAW run to its end (41_draw_clear.md R140, R145). -/
theorem State.Engaged.inv_runDraw {s : State} (hs : s.Engaged) : (runDraw s).Inv := by
  obtain ⟨-, -, hspeed, -⟩ := cfg_legal s.cfg
  have hd : storeDist s.cur s.tgt ≤ maxPasses * s.cfg.fadeSpeed :=
    (storeDist_le s.cur s.tgt).trans (Nat.le_mul_of_pos_right maxPasses hspeed)
  obtain ⟨u, hu, hloop, hnf⟩ := drawLoop_ends 254 (Machine.setOp .draw s) (hs.setOp .draw) hd
  rw [runDraw, maxPasses, hloop]
  exact hu.drawPass.inv_seqIdle_encRest hnf rfl

/-- A CLEAR run to its end (41_draw_clear.md R146). -/
theorem State.Engaged.inv_runClear {s : State} (hs : s.Engaged) (hf : s.fadeCnt = 0) : (runClear s).Inv := by
  have hflush := (hs.setOp .clear).flushing_clearStore rfl hf
  exact hflush.toEngaged.flush.inv_seqIdle_encRest rfl hflush.fadeRests

/-- A whole command in a block that waits: DRAW and CLEAR end idle, and what the others do is the start of it. -/
theorem State.Inv.exec {s t : State} (hs : s.Inv) (hw : s.waiting) (h0 : s.storeWait = 0) (i : Instr)
    (h : exec i s = .next t) : t.Inv := by
  have he : s.Engaged := hs.engaged_of_waiting hw h0
  have hbegin : (Machine.beginCmd i s).Inv := hs.beginCmd hw h0 i
  cases i with
  | draw => cases h; exact he.inv_runDraw
  | clear => cases h; exact he.inv_runClear (hs.fadeRests (by rw [hw.1]; nofun))
  | setPixel i v => cases h; exact hbegin
  | setTarget i v => cases h; exact hbegin
  | setSegTarget g v => cases h; exact hbegin
  | nopBelow => cases h; exact hbegin
  | nopBeyond => cases h; exact hbegin
  | nopMalformed => cases h; exact hbegin

/-! ### A clock edge -/

/-- What the block's idle wait may change: the decoder's scratch within its range, and the wait of a store command. -/
theorem State.Inv.withScratch {s : State} (hs : s.Inv) (hc : s.ctl = .idle) (hh : s.held = false) (d : Scan)
    (hd : d.tok ≤ 3 ∧ d.v.length = 4) (k : Nat) : State.Inv { s with dec := d, storeWait := k } :=
  { hs with
    decRests := fun h => absurd hc h
    decRange := hd
    waitRests := fun h => absurd hc h
    heldReset := fun h => absurd (hh.symm.trans h) nofun }

/-- A store command leaves the block idle. -/
theorem beginCmd_ctl_of_isStoreCmd (i : Instr) (s : State) (hi : isStoreCmd i = true) :
    (beginCmd i s).ctl = s.ctl := by
  cases i with
  | setPixel i v => simp [beginCmd, setPixel]
  | setTarget i v => simp [beginCmd, setTarget]
  | setSegTarget g v => simp [beginCmd, setSegTarget, memWriteAll_eq]
  | draw => cases hi
  | clear => cases hi
  | nopBelow => cases hi
  | nopBeyond => cases hi
  | nopMalformed => cases hi

/-- The last byte's command at the ports (43_pulse_encoder.md R207). -/
theorem State.Inv.applyLine {s : State} (hs : s.Inv) (hw : s.waiting) (h0 : s.storeWait = 0) (i : Instr) :
    (applyLine i s).Inv := by
  have hbegin := hs.beginCmd hw h0 i
  obtain ⟨hc, -, hh⟩ := hw
  obtain ⟨-, -, hheld, -⟩ := beginCmd_frame i s
  unfold Machine.applyLine
  split
  next hi =>
    exact hbegin.withScratch ((beginCmd_ctl_of_isStoreCmd i s hi).trans hc) (hheld.trans hh) _ hbegin.decRange _
  next => exact hbegin

/-- A byte transferred to the idle block. -/
theorem State.Inv.takeByte {s : State} (hs : s.Inv) (hc : s.ctl = .idle) (hh : s.held = false)
    (h0 : s.storeWait = 0) (d : Byte) (last : Bool) : (takeByte d last s).Inv := by
  unfold Machine.takeByte
  split
  next =>
    have hstart := hs.withScratch hc hh scanStart ⟨Nat.zero_le 3, rfl⟩ s.storeWait
    exact hstart.applyLine ⟨hc, rfl, hh⟩ h0 _
  next => exact hs.withScratch hc hh _ (scanByte_range s.cfg s.dec d hs.decRange) s.storeWait

/-- An edge with `rst = 0` of a block out of reset: it counts, takes a byte, or makes a step of the sequencer. -/
theorem State.Inv.runEdge {s : State} (hs : s.Inv) (hh : s.held = false) (q : Pins) : (runEdge q s).Inv := by
  have hheld : s.held ≠ true := by rw [hh]; nofun
  unfold Machine.runEdge
  split
  next hc =>
    split
    next => exact hs.withScratch hc hh s.dec hs.decRange _
    next h0 =>
      split
      next => exact hs.takeByte hc hh (Nat.eq_zero_of_not_pos h0) q.data q.last
      next => exact hs
  next hc =>
    split
    next => exact { hs with fadeRests := fun h => absurd hc h, heldReset := fun h => absurd h hheld }
    next => exact hs.seqStep
  next hc =>
    split
    next ht =>
      obtain ⟨-, htop⟩ := hs.timerRuns hc
      exact { hs with
        timerRuns := fun _ => ⟨Nat.le_sub_one_of_lt ht, (Nat.sub_le s.t 1).trans htop⟩
        timerRests := fun h => absurd hc h
        heldReset := fun h => absurd h hheld }
    next => exact hs.seqStep

/-- The release of reset (70_reset_and_hazards.md R251). -/
theorem State.Inv.release {s : State} (hs : s.Inv) (c : Option Cfg) : (release c s).Inv :=
  inv_init _ false s.wPast s.input fun x hx => hs.durations x (List.mem_append_left s.w hx)

/-- An edge with `rst = 1` (70_reset_and_hazards.md R251, R252). -/
theorem State.Inv.resetEdge {s : State} (hs : s.Inv) : (resetEdge s).Inv := by
  refine inv_init s.cfg true _ s.input ?_
  rw [← List.append_assoc]
  exact List.forall_mem_append.2 ⟨hs.durations, hs.one_le_sinkDur_of_mem_cutInstr⟩

theorem State.Inv.clockEdge {s : State} (hs : s.Inv) (q : Pins) : (clockEdge q s).Inv := by
  cases hr : q.rst with
  | true =>
    rw [clockEdge_rst q s hr]
    exact hs.resetEdge
  | false =>
    cases hh : s.held with
    | true =>
      rw [clockEdge_held q s hr hh]
      exact (hs.release q.cfg).runEdge rfl q
    | false =>
      rw [clockEdge_running q s hr hh]
      exact hs.runEdge hh q

/-! ### The step lemma -/

/-- What is still pending is no part of the invariant. -/
theorem State.Inv.withInput {s : State} (hs : s.Inv) (rest : List Input) : State.Inv { s with input := rest } :=
  { hs with heldReset := fun h => congrArg (fun u : State => { u with input := rest }) (hs.heldReset h) }

/-- Settles O50: each of the four kinds of step keeps the invariant. -/
theorem everyStepKeepsTheInvariant : Obligations.EveryStepKeepsTheInvariant := by
  intro s t hs h
  rcases step_cases s t h with rfl | ⟨q, rest, -, rfl⟩ | ⟨-, -, rfl⟩ | ⟨line, rest, -, hc, hh, he⟩
  · exact hs.seqStep
  · exact (hs.withInput rest).clockEdge q
  · exact hs.release none
  · have htaken : (lineTaken rest s).Inv :=
      (hs.withInput rest).withScratch hc hh scanStart ⟨Nat.zero_le 3, rfl⟩ 0
    exact htaken.exec ⟨hc, rfl, hh⟩ rfl _ he

end Sys2Proof.Machine

/-! PROOFS. The memory (20_memory.md): a segment's pixels (R54), writes outside the store (R72), and the stream of
command lines, each consumed once and in order (R65, R69). Of the lines: first what a command of a waiting block does to
what the block waits on, then one line, then any number of them. -/

namespace Sys2Proof.Machine

/-! ### Segments and operands outside the store -/

theorem segPixels_of_getElem? {c : Cfg} {g : Nat} {seg : Segment} (h : c.segs[g]? = some seg) :
    segPixels c g = segmentPixels seg := by
  rw [segPixels, h]

/-- A segment number outside the table names no pixel (R72). -/
theorem segPixels_outside {c : Cfg} {g : Nat} (h : c.segs.length ≤ g) : segPixels c g = [] := by
  rw [segPixels, List.getElem?_eq_none h]

/-- Settles O26: the range is a legal table entry's, so it holds its own start and ends below `N`. -/
theorem segmentRangeInsideTheStore : Obligations.SegmentRangeInsideTheStore := by
  intro cfg g seg hseg
  obtain ⟨-, hlegal, -⟩ := cfg_legal cfg
  obtain ⟨hle, hlt⟩ := hlegal seg (List.mem_of_getElem? hseg)
  rw [segPixels_of_getElem? hseg]
  refine ⟨List.ne_nil_of_mem ((mem_segmentPixels seg seg.start).2 ⟨Nat.le_refl _, hle⟩), fun i => ?_⟩
  rw [mem_segmentPixels]
  omega

theorem setTarget_outside {i : Nat} {c : Color} {s : State} (ht : s.tgt.length ≤ i) : setTarget i c s = s :=
  memWrite_outside .tgt i c s ht

theorem setPixel_outside {i : Nat} {c : Color} {s : State} (hc : s.cur.length ≤ i) (ht : s.tgt.length ≤ i) :
    setPixel i c s = s := by
  rw [setPixel, memWrite_outside .cur i c s hc, memWrite_outside .tgt i c s ht]

theorem setSegTarget_outside {g : Nat} {c : Color} {s : State} (hg : s.cfg.segs.length ≤ g) :
    setSegTarget g c s = s := by
  rw [setSegTarget, segPixels_outside hg]
  rfl

/-- Settles O24: with `N` registers in each file, every write of the three commands is one outside its file, or there is
none. -/
theorem outOfRangeWriteIsIgnored : Obligations.OutOfRangeWriteIsIgnored := by
  intro s i c ⟨hcur, htgt⟩
  refine ⟨fun hi => ⟨?_, ?_⟩, fun hi => ?_⟩
  · exact congrArg Host.Outcome.next (setPixel_outside (hcur.trans_le hi) (htgt.trans_le hi))
  · exact congrArg Host.Outcome.next (setTarget_outside (htgt.trans_le hi))
  · exact congrArg Host.Outcome.next (setSegTarget_outside hi)

/-! ### The command of a line -/

/-- The classification maps an index into the range of its command's operand (30_encoding.md R97, R99). -/
theorem classify_wf (cfg : Cfg) (x : Int) (c : Color) : (classify cfg x c).wf cfg = true := by
  unfold classify
  split_ifs with hpixel htarget hseg
  · exact decide_eq_true (by omega)
  · exact decide_eq_true (by omega)
  · exact decide_eq_true (by omega)
  all_goals rfl

theorem decode_wf (cfg : Cfg) (line : List Byte) : (decode cfg line).wf cfg = true := by
  unfold decode
  split
  · rfl
  · exact classify_wf cfg _ _

/-- Settles O4: the step of a waiting block is known, and its command is in range as every decoded command is. -/
theorem stepRunsTheDecodedLine : Obligations.StepRunsTheDecodedLine :=
  fun s line rest hi hw => ⟨decode_wf s.cfg line, step_line_waiting s line rest hi hw⟩

/-! ### A stream of lines -/

/-- Every command completes (60_exceptions.md R220). -/
theorem exec_completes (i : Instr) (s : State) : ∃ t, exec i s = .next t := by
  cases i <;> exact ⟨_, rfl⟩

/-- A command of an idle block ends with the block idle: DRAW and CLEAR return there, the others never leave
(41_draw_clear.md R145, R146; 40_store_commands.md R125). -/
theorem exec_ctl_idle (i : Instr) (s t : State) (hc : s.ctl = .idle) (h : exec i s = .next t) : t.ctl = .idle := by
  cases i with
  | setPixel i c => cases h; simpa [setPixel] using hc
  | setTarget i c => cases h; simpa [setTarget] using hc
  | setSegTarget g c => cases h; simpa [setSegTarget, memWriteAll_eq] using hc
  | draw => cases h; rfl
  | clear => cases h; rfl
  | nopBelow => cases h; exact hc
  | nopBeyond => cases h; exact hc
  | nopMalformed => cases h; exact hc

/-- After its command is finished a waiting block waits again (60_exceptions.md R235). -/
theorem State.waiting.exec {i : Instr} {s t : State} (hw : s.waiting) (h : exec i s = .next t) : t.waiting := by
  obtain ⟨hc, hdec, hheld⟩ := hw
  obtain ⟨-, -, hheld', hdec', -⟩ := exec_frame i s t h
  exact ⟨exec_ctl_idle i s t hc h, hdec'.trans hdec, hheld'.trans hheld⟩

/-- One step of a waiting block takes exactly the first pending line, and the block waits again (R65, R69). -/
theorem State.waiting.step_line {s : State} {line : List Byte} {rest : List Input} (hw : s.waiting)
    (hi : s.input = .line line :: rest) : ∃ t, step s = .next t ∧ t.input = rest ∧ t.waiting ∧ t.cfg = s.cfg := by
  obtain ⟨t, ht⟩ := exec_completes (decode s.cfg line) (lineTaken rest s)
  obtain ⟨hcfg, hinput, -⟩ := exec_frame _ _ t ht
  have hstep : step s = .next t := (step_line_waiting s line rest hi hw).trans ht
  obtain ⟨hc, -, hheld⟩ := hw
  have htaken : (lineTaken rest s).waiting := ⟨hc, rfl, hheld⟩
  exact ⟨t, hstep, hinput, htaken.exec ht, hcfg⟩

/-- `k` steps of a waiting block with only lines pending take exactly the first `k` of them. -/
theorem State.waiting.run_lines (k : Nat) {s : State} (hw : s.waiting) (hl : ∀ x ∈ s.input, isLine x = true)
    (hk : k ≤ s.input.length) :
    ∃ u, Sys2Proof.core.run k s = .next u ∧ u.input = s.input.drop k ∧ u.waiting ∧ u.cfg = s.cfg := by
  induction k generalizing s with
  | zero => exact ⟨s, rfl, rfl, hw, rfl⟩
  | succ k ih =>
    cases hi : s.input with
    | nil => rw [hi] at hk; cases hk
    | cons x rest =>
      rw [hi] at hl hk
      obtain ⟨hx, hrest⟩ := List.forall_mem_cons.1 hl
      cases x with
      | edge pins => cases hx
      | line line =>
        obtain ⟨t, hstep, rfl, hwt, hcfg⟩ := hw.step_line hi
        obtain ⟨u, hrun, hu, hwu, hcfg'⟩ := ih hwt hrest (Nat.le_of_succ_le_succ hk)
        exact ⟨u, (run_succ_of_step k s t hstep).trans hrun, hu, hwu, hcfg'.trans hcfg⟩

/-- Settles O6, by induction on the number of lines taken. -/
theorem everyLineIsTakenInOrder : Obligations.EveryLineIsTakenInOrder := by
  intro s _ hw hl
  obtain ⟨t, hrun, hinput, hwt, hcfg⟩ := hw.run_lines s.input.length hl (Nat.le_refl _)
  refine ⟨t, hrun, hinput.trans List.drop_length, hwt, hcfg, fun k hk => ?_⟩
  obtain ⟨u, hrun, hinput, hwu, -⟩ := hw.run_lines k hl hk
  exact ⟨u, hrun, hinput, hwu⟩

end Sys2Proof.Machine

/-! PROOFS. The line format (30_encoding.md): the packed colour (R96), the classification (R97), literals and lines (R82
to R91), `Decode` and the canonical lines (R99, R108), and the streaming decoder (R112), token by token. -/

namespace Sys2Proof

/-! ### The packed colour (R96) -/

theorem toNat_pack (r g b : Byte) : (pack r g b).toNat = g.toNat * 65536 + r.toNat * 256 + b.toNat := by
  rw [pack, BitVec.toNat_append, BitVec.toNat_append, ← Nat.shiftLeft_add_eq_or_of_lt r.isLt,
    ← Nat.shiftLeft_add_eq_or_of_lt b.isLt, Nat.shiftLeft_eq, Nat.shiftLeft_eq]
  omega

/-- Settles O18: the value of a packed colour is computed from the shifts of the concatenation. -/
theorem packIsGreenRedBlue : Obligations.PackIsGreenRedBlue :=
  ⟨fun r g b => ⟨toNat_pack r g b, chR_pack r g b, chG_pack r g b, chB_pack r g b⟩, pack_channels⟩

/-! ### The classification (R97) -/

section

variable (cfg : Cfg) {x : Int} (c : Color)

theorem classify_pixel (hlo : 0 ≤ x) (hhi : x < cfg.n) : classify cfg x c = .setPixel x.toNat c := by
  rw [classify, if_pos ⟨hlo, hhi⟩]

theorem classify_target (hlo : (cfg.n : Int) ≤ x) (hhi : x < 2 * cfg.n) :
    classify cfg x c = .setTarget (x - cfg.n).toNat c := by
  rw [classify, if_neg (by omega), if_pos ⟨hlo, hhi⟩]

theorem classify_segment (hlo : (2 * cfg.n : Int) ≤ x) (hhi : x < 2 * cfg.n + cfg.segs.length) :
    classify cfg x c = .setSegTarget (x - 2 * cfg.n).toNat c := by
  rw [classify, if_neg (by omega), if_neg (by omega), if_pos ⟨hlo, hhi⟩]

/-- A negative index lies in none of the three windows. -/
theorem classify_negative (h : x < 0) :
    classify cfg x c = if x = -1 then .draw else if x = -2 then .clear else .nopBelow := by
  rw [classify, if_neg (by omega), if_neg (by omega), if_neg (by omega), if_pos h]

theorem classify_draw : classify cfg (-1) c = .draw := by
  rw [classify_negative cfg c (by decide), if_pos rfl]

theorem classify_clear : classify cfg (-2) c = .clear := by
  rw [classify_negative cfg c (by decide), if_neg (by decide), if_pos rfl]

theorem classify_below (h : x ≤ -3) : classify cfg x c = .nopBelow := by
  rw [classify_negative cfg c (by omega), if_neg (by omega), if_neg (by omega)]

theorem classify_beyond (h : (2 * cfg.n + cfg.segs.length : Int) ≤ x) : classify cfg x c = .nopBeyond := by
  rw [classify, if_neg (by omega), if_neg (by omega), if_neg (by omega), if_neg (by omega), if_neg (by omega),
    if_neg (by omega)]

end

/-- Settles O12: one equation for each window, each code, and each side of the unmapped indices. -/
theorem classifyFollowsTheCommandMap : Obligations.ClassifyFollowsTheCommandMap := by
  intro cfg x c
  refine ⟨classify_pixel cfg c, classify_target cfg c, classify_segment cfg c, ?_, ?_, classify_below cfg c,
    classify_beyond cfg c⟩
  · rintro rfl
    exact classify_draw cfg c
  · rintro rfl
    exact classify_clear cfg c

/-! ### Literals (R84 to R89) -/

theorem hexLit_of_ne_nil (xs : List Byte) (h : xs ≠ []) : hexLit xs = digitsFrom 16 hexVal 0 xs := by
  cases xs with
  | nil => exact absurd rfl h
  | cons x xs => rfl

/-- The bytes of a literal with a value are digits. -/
theorem digits_of_digitsFrom {base : Nat} {val : Byte → Option Nat} {acc v : Nat} {xs : List Byte}
    (h : digitsFrom base val acc xs = some v) : ∀ c ∈ xs, (val c).isSome = true := by
  have hall := digitsFrom_isSome base val acc xs
  rw [h] at hall
  exact List.all_eq_true.1 hall.symm

theorem decLit_some {tok : List Byte} {v : Nat} (h : decLit tok = some v) :
    tok ≠ [] ∧ ∀ c ∈ tok, isDigit c = true := by
  cases tok with
  | nil => cases h
  | cons c cs => exact ⟨List.cons_ne_nil c cs, digits_of_digitsFrom h⟩

theorem hexLit_some {tok : List Byte} {v : Nat} (h : hexLit tok = some v) :
    tok ≠ [] ∧ ∀ c ∈ tok, (hexVal c).isSome = true := by
  cases tok with
  | nil => cases h
  | cons c cs => exact ⟨List.cons_ne_nil c cs, digits_of_digitsFrom h⟩

theorem inAlphabet_of_hexVal {c : Byte} (h : (hexVal c).isSome = true) : inAlphabet c = true := by
  rw [inAlphabet, h, Bool.or_true]

theorem chanLit_0x (cs : List Byte) : chanLit (0x30#8 :: 0x78#8 :: cs) = hexLit cs := rfl

/-- Without `0x` in front a channel literal is a decimal one (R89). -/
theorem chanLit_no0x {a : Byte} {cs : List Byte} (h : a = 0x30#8 → ∀ c ∈ cs.head?, c ≠ 0x78#8) :
    chanLit (a :: cs) = decLit (a :: cs) := by
  cases cs with
  | nil => rfl
  | cons x cs => exact if_neg fun ⟨ha, hx⟩ => h ha x rfl hx

theorem indexLit_hyphen (cs : List Byte) :
    indexLit (hyphenByte :: cs) = (decLit cs).map (fun m : Nat => -(m : Int)) := rfl

theorem indexLit_unsigned {tok : List Byte} (h : ∀ c ∈ tok.head?, c ≠ hyphenByte) :
    indexLit tok = (decLit tok).map (fun m : Nat => (m : Int)) := by
  cases tok with
  | nil => rfl
  | cons c cs => exact if_neg (h c rfl)

/-- A channel literal is not empty and holds no byte outside the alphabet. -/
theorem chanLit_some {tok : List Byte} {v : Nat} (h : chanLit tok = some v) :
    tok ≠ [] ∧ ∀ c ∈ tok, inAlphabet c = true := by
  have hdec : ∀ {tok' : List Byte}, decLit tok' = some v → tok' ≠ [] ∧ ∀ c ∈ tok', inAlphabet c = true :=
    fun h' => ⟨(decLit_some h').1, fun c hc => inAlphabet_of_isDigit c ((decLit_some h').2 c hc)⟩
  match tok with
  | [] => cases h
  | [_] => exact hdec h
  | a :: x :: cs =>
    by_cases hp : a = 0x30#8 ∧ x = 0x78#8
    · obtain ⟨rfl, rfl⟩ := hp
      obtain ⟨-, hdigits⟩ := hexLit_some h
      refine ⟨List.cons_ne_nil _ _, List.forall_mem_cons.2 ⟨by decide, List.forall_mem_cons.2 ⟨by decide, ?_⟩⟩⟩
      exact fun c hc => inAlphabet_of_hexVal (hdigits c hc)
    · exact hdec ((if_neg hp).symm.trans h)

/-- An index literal is not empty and holds no byte outside the alphabet. -/
theorem indexLit_some {tok : List Byte} {x : Int} (h : indexLit tok = some x) :
    tok ≠ [] ∧ ∀ c ∈ tok, inAlphabet c = true := by
  have hdec : ∀ {tok' : List Byte} {f : Nat → Int}, (decLit tok').map f = some x → ∀ c ∈ tok', inAlphabet c = true := by
    intro tok' f h' c hc
    obtain ⟨m, hm, -⟩ := Option.map_eq_some_iff.1 h'
    exact inAlphabet_of_isDigit c ((decLit_some hm).2 c hc)
  cases tok with
  | nil => cases h
  | cons c cs =>
    refine ⟨List.cons_ne_nil c cs, ?_⟩
    by_cases hc : c = hyphenByte
    · subst hc
      exact List.forall_mem_cons.2 ⟨by decide, hdec h⟩
    · exact hdec ((if_neg hc).symm.trans h)

/-- Zeros in front of digits leave the number read from them as it is. -/
theorem digitsFrom_zeros {base : Nat} {val : Byte → Option Nat} (hval : val 0x30#8 = some 0) (k : Nat)
    (ds : List Byte) : digitsFrom base val 0 (List.replicate k 0x30#8 ++ ds) = digitsFrom base val 0 ds := by
  induction k with
  | zero => rfl
  | succ k ih =>
    rw [List.replicate_succ, List.cons_append, digitsFrom, hval]
    simpa using ih

theorem zeros_append_ne_nil (k : Nat) {ds : List Byte} (h : ds ≠ []) : List.replicate k 0x30#8 ++ ds ≠ [] :=
  List.append_ne_nil_of_right_ne_nil _ h

theorem decLit_zeros (k : Nat) {ds : List Byte} (h : ds ≠ []) : decLit (List.replicate k 0x30#8 ++ ds) = decLit ds := by
  rw [decLit_of_ne_nil _ (zeros_append_ne_nil k h), decLit_of_ne_nil _ h, digitsFrom_zeros (by decide)]

theorem hexLit_zeros (k : Nat) {ds : List Byte} (h : ds ≠ []) : hexLit (List.replicate k 0x30#8 ++ ds) = hexLit ds := by
  rw [hexLit_of_ne_nil _ (zeros_append_ne_nil k h), hexLit_of_ne_nil _ h, digitsFrom_zeros (by decide)]

/-- Settles O14: the padded digits are digits of the same number, and they neither begin with a hyphen nor hold an
`x`. -/
theorem leadingZerosChangeNothing : Obligations.LeadingZerosChangeNothing := by
  intro k ds v
  constructor
  · intro h
    have hval : decLit (List.replicate k 0x30#8 ++ ds) = some v := (decLit_zeros k (decLit_some h).1).trans h
    obtain ⟨-, hdigits⟩ := decLit_some hval
    refine ⟨(chanLit_of_digits _ hdigits).trans hval, ?_, ?_⟩
    · rw [indexLit_unsigned fun c hc => (isDigit_ne c (hdigits c (List.mem_of_mem_head? hc))).2.1, hval]
      rfl
    · rw [indexLit_hyphen, hval]
      rfl
  · intro h
    exact (hexLit_zeros k (hexLit_some h).1).trans h

/-- Hexadecimal digits read back as their value (R87). -/
theorem digitsFrom_hexBytes (ds : List (Bool × Fin 16)) (acc : Nat) :
    digitsFrom 16 hexVal acc (ds.map fun d => hexByte d.1 d.2) =
      some (ds.foldl (fun a d => a * 16 + d.2.val) acc) := by
  induction ds generalizing acc with
  | nil => rfl
  | cons d ds ih =>
    rw [List.map_cons, digitsFrom, hexVal_hexByte]
    exact ih _

theorem chanLit_hexText {ds : List (Bool × Fin 16)} (h : ds ≠ []) : chanLit (hexText ds) = some (hexValue ds) := by
  rw [hexText, chanLit_0x, hexLit_of_ne_nil _ (mt List.map_eq_nil_iff.1 h), digitsFrom_hexBytes, hexValue]

/-- The `x` after the first zero is no decimal digit. -/
theorem indexLit_hexText (ds : List (Bool × Fin 16)) : indexLit (hexText ds) = none := rfl

/-! ### Lines (R82, R83, R88, R91) -/

/-- Four tokens with a separator between one and the next (R83). -/
def joinTokens (ti tr tg tb : List Byte) : List Byte :=
  ti ++ spaceByte :: (tr ++ spaceByte :: (tg ++ spaceByte :: tb))

theorem lineText_eq_joinTokens (x : Int) (r g b : Byte) :
    lineText x r g b = joinTokens (intText x) (decText r.toNat) (decText g.toNat) (decText b.toNat) := rfl

theorem channel_of_chanLit {tok : List Byte} {v : Nat} (h : chanLit tok = some v) :
    channel tok = if v ≤ 255 then .ok (BitVec.ofNat 8 v) else .error .channelRange := by
  rw [channel, h]

/-- A channel token that parses is a literal in range (R88). -/
theorem chanLit_of_channel {tok : List Byte} {c : Byte} (h : channel tok = .ok c) :
    ∃ v, chanLit tok = some v ∧ v ≤ 255 := by
  cases hv : chanLit tok with
  | none =>
    rw [channel, hv] at h
    cases h
  | some v =>
    rw [channel_of_chanLit hv] at h
    split at h
    · exact ⟨v, rfl, ‹_›⟩
    · cases h

/-- Tokens that parse are an index literal and three channel literals in range. -/
theorem parseTokens_ok {ti tr tg tb : List Byte} {q : Parsed} (h : parseTokens ti tr tg tb = .ok q) :
    indexLit ti = some q.index ∧ (∃ r, chanLit tr = some r ∧ r ≤ 255) ∧ (∃ g, chanLit tg = some g ∧ g ≤ 255) ∧
      ∃ b, chanLit tb = some b ∧ b ≤ 255 := by
  unfold parseTokens at h
  split at h
  · cases h
  · rename_i x hx
    split at h
    · rename_i r g b hr hg hb
      cases h
      exact ⟨hx, chanLit_of_channel hr, chanLit_of_channel hg, chanLit_of_channel hb⟩
    all_goals cases h

/-- A line that parses has four fields, which parse. -/
theorem parse_ok {line : List Byte} {q : Parsed} (h : parse line = .ok q) :
    ∃ ti tr tg tb, fields line = [ti, tr, tg, tb] ∧ parseTokens ti tr tg tb = .ok q := by
  unfold parse at h
  split at h
  · exact ⟨_, _, _, _, ‹_›, h⟩
  · cases h

theorem decode_of_parse_error {cfg : Cfg} {line : List Byte} {e : Malform} (h : parse line = .error e) :
    decode cfg line = .nopMalformed := by
  rw [decode, h]

theorem decode_of_parse_ok {cfg : Cfg} {line : List Byte} {q : Parsed} (h : parse line = .ok q) :
    decode cfg line = classify cfg q.index (pack q.r q.g q.b) := by
  rw [decode, h]

theorem decode_of_not_parse_ok {cfg : Cfg} {line : List Byte} (h : ∀ q, parse line ≠ .ok q) :
    decode cfg line = .nopMalformed := by
  cases hp : parse line with
  | error e => exact decode_of_parse_error hp
  | ok q => exact absurd hp (h q)

/-- Settles O11: the two outcomes of `Parse`, and a classification that stays in range. -/
theorem decodeIsTotalAndInRange : Obligations.DecodeIsTotalAndInRange :=
  fun cfg line => ⟨fun _ h => decode_of_parse_error h, fun _ h => decode_of_parse_ok h, Machine.decode_wf cfg line⟩

/-- Every field of a line that parses is non-empty and inside the alphabet. -/
theorem fields_of_parse_ok {line : List Byte} {q : Parsed} (h : parse line = .ok q) :
    (fields line).length = 4 ∧ ∀ f ∈ fields line, f ≠ [] ∧ ∀ c ∈ f, inAlphabet c = true := by
  obtain ⟨ti, tr, tg, tb, hfields, htokens⟩ := parse_ok h
  obtain ⟨hi, ⟨r, hr, -⟩, ⟨g, hg, -⟩, ⟨b, hb, -⟩⟩ := parseTokens_ok htokens
  rw [hfields]
  refine ⟨rfl, ?_⟩
  simp only [List.forall_mem_cons]
  exact ⟨indexLit_some hi, chanLit_some hr, chanLit_some hg, chanLit_some hb, List.forall_mem_nil _⟩

/-- Settles O15: a line that parses has four fields, each non-empty and inside the alphabet, and a byte of it that is no
separator stands in one of them. -/
theorem offGrammarLineIsDropped : Obligations.OffGrammarLineIsDropped := by
  intro cfg line hoff
  refine decode_of_not_parse_ok fun q hq => ?_
  obtain ⟨hlen, hfields⟩ := fields_of_parse_ok hq
  rcases hoff with ⟨c, hc, hforeign⟩ | hcount | hempty
  · by_cases hs : c = spaceByte
    · subst hs
      exact absurd hforeign (by decide)
    · obtain ⟨f, hf, hcf⟩ := mem_fields line c hc hs
      obtain ⟨-, halpha⟩ := hfields f hf
      rw [halpha c hcf] at hforeign
      cases hforeign
  · rw [length_fields] at hlen
    omega
  · exact (hfields [] hempty).1 rfl

section

variable {ti tr tg tb : List Byte} (hi : ∀ c ∈ ti, c ≠ spaceByte) (hr : ∀ c ∈ tr, c ≠ spaceByte)
  (hg : ∀ c ∈ tg, c ≠ spaceByte) (hb : ∀ c ∈ tb, c ≠ spaceByte)

include hi hr hg hb

theorem parse_joinTokens : parse (joinTokens ti tr tg tb) = parseTokens ti tr tg tb := by
  rw [parse, joinTokens, fields_token_space _ _ hi, fields_token_space _ _ hr, fields_token_space _ _ hg,
    fields_token _ hb]

/-- A line of four literals is classified by its values if its channels are in range, and dropped if not (R88, R99). -/
theorem decode_joinTokens (cfg : Cfg) {x : Int} {r g b : Nat} (hx : indexLit ti = some x) (hlr : chanLit tr = some r)
    (hlg : chanLit tg = some g) (hlb : chanLit tb = some b) :
    decode cfg (joinTokens ti tr tg tb) =
      if r ≤ 255 ∧ g ≤ 255 ∧ b ≤ 255 then
        classify cfg x (pack (BitVec.ofNat 8 r) (BitVec.ofNat 8 g) (BitVec.ofNat 8 b))
      else .nopMalformed := by
  have hparse : parse (joinTokens ti tr tg tb) = parseTokens ti tr tg tb := parse_joinTokens hi hr hg hb
  split
  · rename_i hrange
    obtain ⟨h1, h2, h3⟩ := hrange
    rw [parseTokens, hx, channel_of_chanLit hlr, channel_of_chanLit hlg, channel_of_chanLit hlb, if_pos h1, if_pos h2,
      if_pos h3] at hparse
    exact decode_of_parse_ok hparse
  · rename_i hrange
    refine decode_of_not_parse_ok fun q hq => hrange ?_
    obtain ⟨-, hr', hg', hb'⟩ := parseTokens_ok (hparse.symm.trans hq)
    simpa [hlr, hlg, hlb] using And.intro hr' (And.intro hg' hb')

/-- A line with a token that is no literal is dropped. -/
theorem decode_joinTokens_of_none (cfg : Cfg)
    (h : indexLit ti = none ∨ chanLit tr = none ∨ chanLit tg = none ∨ chanLit tb = none) :
    decode cfg (joinTokens ti tr tg tb) = .nopMalformed := by
  refine decode_of_not_parse_ok fun q hq => ?_
  rw [parse_joinTokens hi hr hg hb] at hq
  obtain ⟨hx, ⟨r, hlr, -⟩, ⟨g, hlg, -⟩, ⟨b, hlb, -⟩⟩ := parseTokens_ok hq
  simp [hx, hlr, hlg, hlb] at h

end

/-- Settles O59: the digits are read onto the value read so far, and the line is one of four literals. -/
theorem hexadecimalChannelReadsItsDigits : Obligations.HexadecimalChannelReadsItsDigits :=
  ⟨fun ds h => ⟨chanLit_hexText h, indexLit_hexText ds⟩,
    fun cfg x dr dg db hr hg hb =>
      decode_joinTokens (not_space_intText x) (not_space_hexText dr) (not_space_hexText dg) (not_space_hexText db) cfg
        (indexLit_intText x) (chanLit_hexText hr) (chanLit_hexText hg) (chanLit_hexText hb)⟩

/-! ### Shortest decimal spellings (R85, R86, R108) -/

/-- A line of shortest decimal spellings, the channels of any size. -/
theorem decode_decimal (cfg : Cfg) (x : Int) (r g b : Nat) :
    decode cfg (joinTokens (intText x) (decText r) (decText g) (decText b)) =
      if r ≤ 255 ∧ g ≤ 255 ∧ b ≤ 255 then
        classify cfg x (pack (BitVec.ofNat 8 r) (BitVec.ofNat 8 g) (BitVec.ofNat 8 b))
      else .nopMalformed :=
  decode_joinTokens (not_space_intText x) (not_space_decText r) (not_space_decText g) (not_space_decText b) cfg
    (indexLit_intText x) (chanLit_decText r) (chanLit_decText g) (chanLit_decText b)

/-- Settles O16: the line is one of four literals, one of them out of range. -/
theorem channelAbove255DropsTheLine : Obligations.ChannelAbove255DropsTheLine :=
  fun cfg x r g b h => (decode_decimal cfg x r g b).trans (if_neg (by omega))

theorem decode_lineText (cfg : Cfg) (x : Int) (r g b : Byte) :
    decode cfg (lineText x r g b) = classify cfg x (pack r g b) := by
  have hle : ∀ c : Byte, c.toNat ≤ 255 := fun c => Nat.le_of_lt_succ c.isLt
  rw [lineText_eq_joinTokens, decode_decimal, if_pos ⟨hle r, hle g, hle b⟩]
  simp only [BitVec.ofNat_toNat, BitVec.setWidth_eq]

/-- Settles O13: the shortest spellings are literals of their own values, and a byte is a channel in range. -/
theorem anyIndexIsClassifiedByItsTrueValue : Obligations.AnyIndexIsClassifiedByItsTrueValue :=
  decode_lineText

/-- Settles O10: the canonical line spells an index of the command's own window or code, and the colour's channels. -/
theorem decodeOfEncodeIsIdentity : Obligations.DecodeOfEncodeIsIdentity := by
  intro cfg i hwf
  cases i with
  | setPixel i c =>
    have hi : i < cfg.n := of_decide_eq_true hwf
    rw [encode, decode_lineText, pack_channels, classify_pixel cfg c (by omega) (by omega)]
    simp
  | setTarget i c =>
    have hi : i < cfg.n := of_decide_eq_true hwf
    rw [encode, decode_lineText, pack_channels, classify_target cfg c (by omega) (by omega)]
    simp
  | setSegTarget s c =>
    have hs : s < cfg.segs.length := of_decide_eq_true hwf
    rw [encode, decode_lineText, pack_channels, classify_segment cfg c (by omega) (by omega)]
    simp
  | draw => rw [encode, decode_lineText, classify_draw]
  | clear => rw [encode, decode_lineText, classify_clear]
  | nopBelow => rw [encode, decode_lineText, classify_below cfg _ (by decide)]
  | nopBeyond => rw [encode, decode_lineText, classify_beyond cfg _ (by omega)]
  | nopMalformed =>
    rw [encode]
    exact offGrammarLineIsDropped cfg _ (.inr (.inl (by decide)))

/-! ### The streaming decoder (R112): bytes -/

/-- The scanner does not stand at the end of a literal, so neither a separator nor the line end may come now. -/
def Scan.Fails (d : Scan) : Prop := d.bad = true ∨ scanEnded d.st = false

theorem Scan.not_fails {d : Scan} (hbad : d.bad = false) (hended : scanEnded d.st = true) : ¬d.Fails := by
  rintro (h | h)
  · exact Bool.false_ne_true (hbad.symm.trans h)
  · exact Bool.false_ne_true (h.symm.trans hended)

theorem scanBytes_cons (cfg : Cfg) (d : Scan) (c : Byte) (cs : List Byte) :
    scanBytes cfg d (c :: cs) = scanBytes cfg (scanByte cfg d c) cs := rfl

theorem scanBytes_append (cfg : Cfg) (d : Scan) (xs ys : List Byte) :
    scanBytes cfg d (xs ++ ys) = scanBytes cfg (scanBytes cfg d xs) ys := List.foldl_append

theorem scanByte_bad (cfg : Cfg) {d : Scan} (h : d.bad = true) (c : Byte) : scanByte cfg d c = d := if_pos h

theorem scanBytes_bad (cfg : Cfg) {d : Scan} (h : d.bad = true) (line : List Byte) : scanBytes cfg d line = d := by
  induction line with
  | nil => rfl
  | cons c cs ih => rw [scanBytes_cons, scanByte_bad cfg h, ih]

/-- A byte that opens a run of digits, which is then in position `st`. -/
def openDigits (val : Byte → Option Nat) (st : ScanSt) (d : Scan) (c : Byte) : Scan :=
  match val c with
  | some k => { d with acc := k, st := st }
  | none => { d with bad := true }

theorem scanOpenDec_eq (d : Scan) (c : Byte) : scanOpenDec d c = openDigits digitVal .dec d c := rfl

section

variable (cfg : Cfg) {d : Scan} (hbad : d.bad = false)

include hbad

theorem scanByte_start (hst : d.st = .start) (c : Byte) : scanByte cfg d c = scanFirst d c := by
  rw [scanByte, hbad, hst]
  rfl

theorem scanByte_neg (hst : d.st = .neg) (c : Byte) : scanByte cfg d c = openDigits digitVal .dec d c := by
  rw [scanByte, hbad, hst, ← scanOpenDec_eq]
  rfl

theorem scanByte_zero (hst : d.st = .zero) {c : Byte} (hc : c ≠ spaceByte) :
    scanByte cfg d c = if c = 0x78#8 then { d with st := .hexp } else openDigits digitVal .dec d c := by
  obtain ⟨tok, st, neg, acc, v, bad⟩ := d
  cases hbad
  cases hst
  rw [← scanOpenDec_eq]
  simp [scanByte, hc]

theorem scanByte_hexp (hst : d.st = .hexp) (c : Byte) : scanByte cfg d c = openDigits hexVal .hex d c := by
  obtain ⟨tok, st, neg, acc, v, bad⟩ := d
  cases hbad
  cases hst
  rfl

theorem scanByte_dec (hst : d.st = .dec) {c : Byte} (hc : c ≠ spaceByte) :
    scanByte cfg d c = scanMore cfg 10 digitVal d c := by
  simp [scanByte, hbad, hst, hc]

theorem scanByte_hex (hst : d.st = .hex) {c : Byte} (hc : c ≠ spaceByte) :
    scanByte cfg d c = scanMore cfg 16 hexVal d c := by
  simp [scanByte, hbad, hst, hc]

end

/-- A separator ends a token exactly where a literal has ended. -/
theorem scanByte_space (cfg : Cfg) (d : Scan) :
    scanByte cfg d spaceByte =
      if d.bad = false ∧ scanEnded d.st = true then endToken d else { d with bad := true } := by
  obtain ⟨tok, st, neg, acc, v, bad⟩ := d
  cases bad with
  | true => rfl
  | false => cases st <;> rfl

theorem scanByte_space_of_fails (cfg : Cfg) {d : Scan} (h : d.Fails) : (scanByte cfg d spaceByte).bad = true := by
  rw [scanByte_space, if_neg fun ⟨hbad, hended⟩ => Scan.not_fails hbad hended h]

/-! ### The streaming decoder (R112): counting separators -/

theorem scanFirst_tok (d : Scan) (c : Byte) : (scanFirst d c).tok = d.tok := by
  unfold scanFirst
  split
  · rfl
  · split <;> rfl

theorem openDigits_tok (val : Byte → Option Nat) (st : ScanSt) (d : Scan) (c : Byte) :
    (openDigits val st d c).tok = d.tok := by
  unfold openDigits
  split <;> rfl

theorem scanMore_tok (cfg : Cfg) (base : Nat) (val : Byte → Option Nat) (d : Scan) (c : Byte) :
    (scanMore cfg base val d c).tok = d.tok := by
  unfold scanMore
  split <;> rfl

theorem scanByte_tok_of_ne_space (cfg : Cfg) (d : Scan) {c : Byte} (hc : c ≠ spaceByte) :
    (scanByte cfg d c).tok = d.tok := by
  cases hbad : d.bad with
  | true => rw [scanByte_bad cfg hbad]
  | false =>
    cases hst : d.st with
    | start => rw [scanByte_start cfg hbad hst, scanFirst_tok]
    | neg => rw [scanByte_neg cfg hbad hst, openDigits_tok]
    | zero =>
      rw [scanByte_zero cfg hbad hst hc]
      split
      · rfl
      · exact openDigits_tok digitVal .dec d c
    | dec => rw [scanByte_dec cfg hbad hst hc, scanMore_tok]
    | hexp => rw [scanByte_hexp cfg hbad hst, openDigits_tok]
    | hex => rw [scanByte_hex cfg hbad hst hc, scanMore_tok]

/-- A separator that leaves the line good begins the next token. -/
theorem scanByte_space_tok (cfg : Cfg) {d : Scan} (h : (scanByte cfg d spaceByte).bad = false) :
    (scanByte cfg d spaceByte).tok = d.tok + 1 := by
  rw [scanByte_space] at h ⊢
  split at h
  · rw [if_pos ‹_›]
    unfold endToken at h ⊢
    split at h
    · cases h
    · rw [if_neg ‹_›]
  · cases h

/-- While the line is good the token number counts the separators. -/
theorem scanBytes_tok (cfg : Cfg) (d : Scan) (line : List Byte) (h : (scanBytes cfg d line).bad = false) :
    (scanBytes cfg d line).tok = d.tok + line.count spaceByte := by
  induction line generalizing d with
  | nil => rfl
  | cons c cs ih =>
    have hgood : (scanByte cfg d c).bad = false := by
      by_contra hbad
      rw [scanBytes_cons, scanBytes_bad cfg (by simpa using hbad)] at h
      exact hbad h
    rw [scanBytes_cons, ih _ h]
    by_cases hc : c = spaceByte
    · subst hc
      rw [scanByte_space_tok cfg hgood, List.count_cons_self]
      omega
    · rw [scanByte_tok_of_ne_space cfg d hc, List.count_cons_of_ne hc]

/-! ### The streaming decoder (R112): digits and saturation -/

theorem sat_of_le_255 (cfg : Cfg) {m : Nat} (h : m ≤ 255) : sat cfg m = m :=
  Nat.min_eq_left (h.trans ((le_max_left _ _).trans (Nat.le_succ _)))

theorem sat_le_255 (cfg : Cfg) (m : Nat) : sat cfg m ≤ 255 ↔ m ≤ 255 := by
  simp only [sat, satBound]
  omega

/-- Saturating before a digit is read makes no difference after it. -/
theorem sat_sat_mul_add (cfg : Cfg) {base : Nat} (hbase : 1 ≤ base) (a k : Nat) :
    sat cfg (sat cfg a * base + k) = sat cfg (a * base + k) := by
  by_cases ha : a ≤ satBound cfg
  · rw [sat, sat, Nat.min_eq_left ha, sat]
  · have hbound : satBound cfg ≤ satBound cfg * base := Nat.le_mul_of_pos_right _ hbase
    have hvalue : satBound cfg * base ≤ a * base := Nat.mul_le_mul_right _ (by omega)
    have hsat : sat cfg a = satBound cfg := Nat.min_eq_right (by omega)
    rw [hsat, sat, sat, Nat.min_eq_right (by omega), Nat.min_eq_right (by omega)]

/-- The index a sign and a magnitude stand for. -/
def signedIndex (neg : Bool) (m : Nat) : Int := if neg then -(m : Int) else (m : Int)

/-- The bound lies beyond every window, and its negative below both codes: a saturated index keeps its class. -/
theorem classify_sat (cfg : Cfg) (neg : Bool) (m : Nat) (c : Color) :
    classify cfg (signedIndex neg (sat cfg m)) c = classify cfg (signedIndex neg m) c := by
  by_cases hm : m ≤ satBound cfg
  · rw [sat, Nat.min_eq_left hm]
  · have hsat : sat cfg m = satBound cfg := Nat.min_eq_right (by omega)
    have hbound : 256 ≤ satBound cfg ∧ 2 * cfg.n + cfg.segs.length < satBound cfg := by
      simp only [satBound]
      omega
    rw [hsat]
    cases neg with
    | true =>
      have hbelow : ∀ k : Nat, 256 ≤ k → classify cfg (signedIndex true k) c = .nopBelow :=
        fun k hk => classify_below cfg c (show -(k : Int) ≤ -3 by omega)
      rw [hbelow _ (by omega), hbelow _ (by omega)]
    | false =>
      have hbeyond : ∀ k : Nat, 2 * cfg.n + cfg.segs.length < k → classify cfg (signedIndex false k) c = .nopBeyond :=
        fun k hk => classify_beyond cfg c (show (2 * cfg.n + cfg.segs.length : Int) ≤ (k : Int) by omega)
      rw [hbeyond _ (by omega), hbeyond _ (by omega)]

/-- Where a scan from `d` of a token of value `o` has to end: at the end of a literal, with the saturated value in the
accumulator, or, if the token has no value, at no end of a literal. -/
def TokenRead (cfg : Cfg) (d e : Scan) : Option Nat → Prop
  | some m => ∃ st, scanEnded st = true ∧ e = { d with st := st, acc := sat cfg m }
  | none => e.Fails

/-- In position `st` the scanner reads a run of digits of the base. -/
structure ReadsDigits (base : Nat) (val : Byte → Option Nat) (st : ScanSt) : Prop where
  ended : scanEnded st = true
  base_pos : 1 ≤ base
  val_le : ∀ {c k}, val c = some k → k ≤ 255
  next : ∀ (cfg : Cfg) {d : Scan} {c : Byte}, d.bad = false → d.st = st → c ≠ spaceByte →
    scanByte cfg d c = scanMore cfg base val d c

theorem digitVal_le {c : Byte} {k : Nat} (h : digitVal c = some k) : k ≤ 255 := by
  unfold digitVal at h
  split at h
  · cases h
    omega
  · cases h

theorem hexVal_le {c : Byte} {k : Nat} (h : hexVal c = some k) : k ≤ 255 := by
  unfold hexVal at h
  split_ifs at h <;> cases h <;> omega

theorem readsDigits_dec : ReadsDigits 10 digitVal .dec where
  ended := rfl
  base_pos := by decide
  val_le := digitVal_le
  next cfg _ _ hbad hst hc := scanByte_dec cfg hbad hst hc

theorem readsDigits_hex : ReadsDigits 16 hexVal .hex where
  ended := rfl
  base_pos := by decide
  val_le := hexVal_le
  next cfg _ _ hbad hst hc := scanByte_hex cfg hbad hst hc

section

variable {base : Nat} {val : Byte → Option Nat} {st : ScanSt} (hrun : ReadsDigits base val st) (cfg : Cfg) {d : Scan}
  (hbad : d.bad = false)

include hrun hbad

/-- The rest of a run of digits, after digits of value `a`. -/
theorem ReadsDigits.tokenRead (cs : List Byte) (hcs : ∀ c ∈ cs, c ≠ spaceByte) (a : Nat) :
    TokenRead cfg d (scanBytes cfg { d with st := st, acc := sat cfg a } cs) (digitsFrom base val a cs) := by
  induction cs generalizing a with
  | nil => exact ⟨st, hrun.ended, rfl⟩
  | cons c cs ih =>
    obtain ⟨hc, hcs⟩ := List.forall_mem_cons.1 hcs
    rw [scanBytes_cons, hrun.next cfg (d := { d with st := st, acc := sat cfg a }) hbad rfl hc, scanMore, digitsFrom]
    cases val c with
    | none =>
      simp only
      rw [scanBytes_bad cfg rfl]
      exact .inl rfl
    | some k =>
      simp only
      rw [sat_sat_mul_add cfg hrun.base_pos]
      exact ih hcs _

/-- A whole run of digits, from a position where a digit has to open it. -/
theorem ReadsDigits.tokenRead_open {c : Byte} (hfirst : scanByte cfg d c = openDigits val st d c) (cs : List Byte)
    (hcs : ∀ c ∈ cs, c ≠ spaceByte) :
    TokenRead cfg d (scanBytes cfg d (c :: cs)) (digitsFrom base val 0 (c :: cs)) := by
  rw [scanBytes_cons, hfirst, openDigits, digitsFrom]
  cases hk : val c with
  | none =>
    simp only
    rw [scanBytes_bad cfg rfl]
    exact .inl rfl
  | some k =>
    have hread := hrun.tokenRead cfg hbad cs hcs k
    rw [sat_of_le_255 cfg (hrun.val_le hk)] at hread
    simpa using hread

end

/-! ### The streaming decoder (R112): tokens -/

theorem eq_zero_of_digitVal {c : Byte} (h : digitVal c = some 0) : c = 0x30#8 := by
  unfold digitVal at h
  split at h
  · refine BitVec.eq_of_toNat_eq (y := 0x30#8) ?_
    have hval := Option.some.inj h
    simp only [BitVec.toNat_ofNat]
    omega
  · cases h

/-- The first byte of a decimal literal, but for the hyphen of an index and the zero that may begin `0x`. -/
theorem scanFirst_open {d : Scan} {c : Byte} (hneg : c = hyphenByte → d.tok ≠ 0) (hzero : c = 0x30#8 → d.tok = 0) :
    scanFirst d c = openDigits digitVal .dec d c := by
  rw [scanFirst, if_neg fun ⟨hc, htok⟩ => hneg hc htok, openDigits]
  cases hk : digitVal c with
  | none => rfl
  | some k =>
    have hdec : ¬(k = 0 ∧ d.tok ≠ 0) := by
      rintro ⟨rfl, htok⟩
      exact htok (hzero (eq_zero_of_digitVal hk))
    simp only [if_neg hdec]

/-- A zero at the head of a channel may begin `0x`. -/
theorem scanFirst_zero {d : Scan} (htok : d.tok ≠ 0) : scanFirst d 0x30#8 = { d with acc := 0, st := .zero } := by
  rw [scanFirst, if_neg fun ⟨_, h⟩ => htok h]
  simp [digitVal, htok]

section

variable (cfg : Cfg) {d : Scan} (hbad : d.bad = false)

include hbad

/-- After the sign the digits of the index have to follow. -/
theorem tokenRead_neg (hst : d.st = .neg) (cs : List Byte) (hcs : ∀ c ∈ cs, c ≠ spaceByte) :
    TokenRead cfg d (scanBytes cfg d cs) (decLit cs) := by
  cases cs with
  | nil => exact .inr (congrArg scanEnded hst)
  | cons c cs =>
    exact readsDigits_dec.tokenRead_open cfg hbad (scanByte_neg cfg hbad hst c) cs (List.forall_mem_cons.1 hcs).2

/-- After `0x` the hexadecimal digits have to follow. -/
theorem tokenRead_hexp (hst : d.st = .hexp) (cs : List Byte) (hcs : ∀ c ∈ cs, c ≠ spaceByte) :
    TokenRead cfg d (scanBytes cfg d cs) (hexLit cs) := by
  cases cs with
  | nil => exact .inr (congrArg scanEnded hst)
  | cons c cs =>
    exact readsDigits_hex.tokenRead_open cfg hbad (scanByte_hexp cfg hbad hst c) cs (List.forall_mem_cons.1 hcs).2

/-- After a zero there is nothing, an `x`, or the rest of a decimal literal. -/
theorem tokenRead_zero (hst : d.st = .zero) (hacc : d.acc = 0) (cs : List Byte) (hcs : ∀ c ∈ cs, c ≠ spaceByte) :
    TokenRead cfg d (scanBytes cfg d cs) (chanLit (0x30#8 :: cs)) := by
  cases cs with
  | nil =>
    have hsat : sat cfg 0 = d.acc := (sat_of_le_255 cfg (Nat.zero_le _)).trans hacc.symm
    refine ⟨.zero, rfl, ?_⟩
    show d = { d with st := .zero, acc := sat cfg 0 }
    rw [hsat, ← hst]
  | cons x cs =>
    obtain ⟨hx, hrest⟩ := List.forall_mem_cons.1 hcs
    have hbyte := scanByte_zero cfg hbad hst hx
    by_cases hx78 : x = 0x78#8
    · subst hx78
      rw [scanBytes_cons, hbyte, if_pos rfl, chanLit_0x]
      exact tokenRead_hexp cfg (d := { d with st := .hexp }) hbad rfl cs hrest
    · rw [if_neg hx78] at hbyte
      rw [chanLit_no0x (by simpa using hx78)]
      exact readsDigits_dec.tokenRead_open cfg hbad hbyte cs hrest

/-- The scanner reads channel literals (R86, R87). -/
theorem tokenRead_channel (hst : d.st = .start) (htok : d.tok ≠ 0) (tok : List Byte) (hcs : ∀ c ∈ tok, c ≠ spaceByte) :
    TokenRead cfg d (scanBytes cfg d tok) (chanLit tok) := by
  cases tok with
  | nil => exact .inr (congrArg scanEnded hst)
  | cons c cs =>
    obtain ⟨-, hrest⟩ := List.forall_mem_cons.1 hcs
    have hbyte := scanByte_start cfg hbad hst c
    by_cases hzero : c = 0x30#8
    · subst hzero
      rw [scanBytes_cons, hbyte, scanFirst_zero htok]
      exact tokenRead_zero cfg (d := { d with acc := 0, st := .zero }) hbad rfl rfl cs hrest
    · rw [scanFirst_open (fun _ => htok) fun h => absurd h hzero] at hbyte
      rw [chanLit_no0x fun h => absurd h hzero]
      exact readsDigits_dec.tokenRead_open cfg hbad hbyte cs hrest

end

/-- The scanner reads the index literal (R84), its sign apart from its digits. -/
theorem tokenRead_index (cfg : Cfg) (tok : List Byte) (htok : ∀ c ∈ tok, c ≠ spaceByte) :
    ∃ neg o, indexLit tok = o.map (signedIndex neg) ∧
      TokenRead cfg { scanStart with neg := neg } (scanBytes cfg scanStart tok) o := by
  cases tok with
  | nil => exact ⟨false, none, rfl, .inr rfl⟩
  | cons c cs =>
    obtain ⟨-, hcs⟩ := List.forall_mem_cons.1 htok
    by_cases hneg : c = hyphenByte
    · subst hneg
      exact ⟨true, decLit cs, rfl, tokenRead_neg cfg (d := { scanStart with neg := true, st := .neg }) rfl rfl cs hcs⟩
    · have hfirst : scanFirst scanStart c = openDigits digitVal .dec scanStart c :=
        scanFirst_open (fun h => absurd h hneg) fun _ => rfl
      refine ⟨false, decLit (c :: cs), if_neg hneg, ?_⟩
      exact readsDigits_dec.tokenRead_open cfg (d := scanStart) rfl hfirst cs hcs

/-! ### The streaming decoder (R112): lines -/

/-- The scratch after a token of value `m` and its separator. -/
def nextToken (cfg : Cfg) (d : Scan) (m : Nat) : Scan :=
  { d with v := d.v.set d.tok (sat cfg m), acc := sat cfg m, tok := d.tok + 1, st := .start }

theorem scanBytes_token (cfg : Cfg) {d e : Scan} {tok : List Byte} {m : Nat} (hbad : d.bad = false) (htok : d.tok ≠ 3)
    (hread : TokenRead cfg d (scanBytes cfg e tok) (some m)) (rest : List Byte) :
    scanBytes cfg e (tok ++ spaceByte :: rest) = scanBytes cfg (nextToken cfg d m) rest := by
  obtain ⟨st, hended, he⟩ := hread
  rw [scanBytes_append, he, scanBytes_cons, scanByte_space, if_pos ⟨hbad, hended⟩, endToken, if_neg htok]
  rfl

/-- At the end of a line the scanner has to stand at the end of its fourth literal. -/
theorem scanEnd_eq_nopMalformed (cfg : Cfg) {d : Scan} (h : d.Fails ∨ d.tok ≠ 3) : scanEnd cfg d = .nopMalformed := by
  refine if_neg fun hgood => ?_
  simp only [Bool.and_eq_true, Bool.not_eq_true', decide_eq_true_eq] at hgood
  obtain ⟨⟨⟨⟨⟨hbad, htok⟩, hended⟩, -⟩, -⟩, -⟩ := hgood
  rcases h with h | h
  · exact Scan.not_fails hbad hended h
  · exact h htok

theorem scanEnd_token_of_fails (cfg : Cfg) {d : Scan} {tok : List Byte} (h : (scanBytes cfg d tok).Fails)
    (rest : List Byte) : scanEnd cfg (scanBytes cfg d (tok ++ spaceByte :: rest)) = .nopMalformed := by
  have hbad : (scanByte cfg (scanBytes cfg d tok) spaceByte).bad = true := scanByte_space_of_fails cfg h
  rw [scanBytes_append, scanBytes_cons, scanBytes_bad cfg hbad]
  exact scanEnd_eq_nopMalformed cfg (.inl (.inl hbad))

/-- The end of a line of four literals: saturation changes neither the range test nor the class. -/
theorem scanEnd_fourLiterals (cfg : Cfg) {st : ScanSt} (hst : scanEnded st = true) (neg : Bool) (m r g b z : Nat) :
    scanEnd cfg ⟨3, st, neg, sat cfg b, [sat cfg m, sat cfg r, sat cfg g, z], false⟩ =
      if r ≤ 255 ∧ g ≤ 255 ∧ b ≤ 255 then
        classify cfg (signedIndex neg m) (pack (BitVec.ofNat 8 r) (BitVec.ofNat 8 g) (BitVec.ofNat 8 b))
      else .nopMalformed := by
  rw [← classify_sat]
  by_cases hrange : r ≤ 255 ∧ g ≤ 255 ∧ b ≤ 255
  · obtain ⟨hr, hg, hb⟩ := hrange
    simp [scanEnd, signedIndex, hst, sat_of_le_255 cfg hr, sat_of_le_255 cfg hg, sat_of_le_255 cfg hb, hr, hg, hb]
  · rw [if_neg hrange]
    refine if_neg fun hgood => hrange ?_
    simpa [hst, sat_le_255, and_assoc] using hgood

/-- A line with other than three separators is dropped by the scanner (R83). -/
theorem scan_of_count (cfg : Cfg) {line : List Byte} (h : line.count spaceByte ≠ 3) :
    scanEnd cfg (scanBytes cfg scanStart line) = .nopMalformed := by
  refine scanEnd_eq_nopMalformed cfg ?_
  cases hbad : (scanBytes cfg scanStart line).bad with
  | true => exact .inl (.inl hbad)
  | false =>
    rw [scanBytes_tok cfg scanStart line hbad]
    exact .inr (by simpa [scanStart] using h)

section

variable (cfg : Cfg) {d : Scan} {tok : List Byte} (hbad : d.bad = false) (hst : d.st = .start)
  (hcs : ∀ c ∈ tok, c ≠ spaceByte)

include hbad hst hcs

/-- A channel that is no literal, with a separator after it. -/
theorem scanEnd_channel_none (htok : d.tok = 1 ∨ d.tok = 2) (hlit : chanLit tok = none) (rest : List Byte) :
    scanEnd cfg (scanBytes cfg d (tok ++ spaceByte :: rest)) = .nopMalformed := by
  have hread := tokenRead_channel cfg hbad hst (by omega) tok hcs
  rw [hlit] at hread
  exact scanEnd_token_of_fails cfg hread rest

/-- A channel literal with a separator after it. -/
theorem scanBytes_channel_some (htok : d.tok = 1 ∨ d.tok = 2) {m : Nat} (hlit : chanLit tok = some m)
    (rest : List Byte) : scanBytes cfg d (tok ++ spaceByte :: rest) = scanBytes cfg (nextToken cfg d m) rest := by
  have hread := tokenRead_channel cfg hbad hst (by omega) tok hcs
  rw [hlit] at hread
  exact scanBytes_token cfg hbad (by omega) hread rest

/-- A last channel that is no literal. -/
theorem scanEnd_lastChannel_none (htok : d.tok = 3) (hlit : chanLit tok = none) :
    scanEnd cfg (scanBytes cfg d tok) = .nopMalformed := by
  have hread := tokenRead_channel cfg hbad hst (by omega) tok hcs
  rw [hlit] at hread
  exact scanEnd_eq_nopMalformed cfg (.inl hread)

end

/-- The last channel literal, after three literals. -/
theorem scanEnd_lastChannel_some (cfg : Cfg) {tok : List Byte} (hcs : ∀ c ∈ tok, c ≠ spaceByte) {b : Nat}
    (hlit : chanLit tok = some b) (neg : Bool) (acc m r g z : Nat) :
    scanEnd cfg (scanBytes cfg ⟨3, .start, neg, acc, [sat cfg m, sat cfg r, sat cfg g, z], false⟩ tok) =
      if r ≤ 255 ∧ g ≤ 255 ∧ b ≤ 255 then
        classify cfg (signedIndex neg m) (pack (BitVec.ofNat 8 r) (BitVec.ofNat 8 g) (BitVec.ofNat 8 b))
      else .nopMalformed := by
  have hread := tokenRead_channel cfg (d := ⟨3, .start, neg, acc, [sat cfg m, sat cfg r, sat cfg g, z], false⟩) rfl rfl
    three_ne_zero tok hcs
  rw [hlit] at hread
  obtain ⟨st, hended, he⟩ := hread
  rw [he]
  exact scanEnd_fourLiterals cfg hended neg m r g b z

/-- Token after token, the scanner fails where a token of the line is no literal, and else ends with the saturated
values of its four literals. -/
theorem scan_joinTokens (cfg : Cfg) {ti tr tg tb : List Byte} (hi : ∀ c ∈ ti, c ≠ spaceByte)
    (hr : ∀ c ∈ tr, c ≠ spaceByte) (hg : ∀ c ∈ tg, c ≠ spaceByte) (hb : ∀ c ∈ tb, c ≠ spaceByte) :
    scanEnd cfg (scanBytes cfg scanStart (joinTokens ti tr tg tb)) = decode cfg (joinTokens ti tr tg tb) := by
  have hdrop := decode_joinTokens_of_none hi hr hg hb cfg
  obtain ⟨neg, o, hx, hindex⟩ := tokenRead_index cfg ti hi
  cases o with
  | none =>
    rw [hdrop (.inl hx)]
    exact scanEnd_token_of_fails cfg hindex _
  | some m =>
    rw [joinTokens, scanBytes_token cfg rfl (by simp [scanStart]) hindex, ← joinTokens]
    cases hlr : chanLit tr with
    | none =>
      rw [hdrop (.inr (.inl hlr))]
      exact scanEnd_channel_none cfg rfl rfl hr (.inl rfl) hlr _
    | some r =>
      rw [scanBytes_channel_some cfg rfl rfl hr (.inl rfl) hlr]
      cases hlg : chanLit tg with
      | none =>
        rw [hdrop (.inr (.inr (.inl hlg)))]
        exact scanEnd_channel_none cfg rfl rfl hg (.inr rfl) hlg _
      | some g =>
        rw [scanBytes_channel_some cfg rfl rfl hg (.inr rfl) hlg]
        cases hlb : chanLit tb with
        | none =>
          rw [hdrop (.inr (.inr (.inr hlb)))]
          exact scanEnd_lastChannel_none cfg rfl rfl hb rfl hlb
        | some b =>
          rw [decode_joinTokens hi hr hg hb cfg hx hlr hlg hlb]
          exact scanEnd_lastChannel_some cfg hb hlb neg (sat cfg g) m r g 0

/-- The first separator of a line ends a token, and one separator fewer follows. -/
theorem exists_token_of_count {line : List Byte} {k : Nat} (h : line.count spaceByte = k + 1) :
    ∃ tok rest, line = tok ++ spaceByte :: rest ∧ (∀ c ∈ tok, c ≠ spaceByte) ∧ rest.count spaceByte = k := by
  have hmem : spaceByte ∈ line := List.count_pos_iff.1 (by omega)
  obtain ⟨tok, rest, rfl, htok⟩ := List.eq_append_cons_of_mem hmem
  refine ⟨tok, rest, rfl, fun c hc hs => htok (hs ▸ hc), ?_⟩
  rw [List.count_append, List.count_eq_zero.2 htok, List.count_cons_self] at h
  omega

/-- A line with three separators is four tokens. -/
theorem exists_joinTokens_of_count {line : List Byte} (h : line.count spaceByte = 3) :
    ∃ ti tr tg tb, line = joinTokens ti tr tg tb ∧ (∀ c ∈ ti, c ≠ spaceByte) ∧ (∀ c ∈ tr, c ≠ spaceByte) ∧
      (∀ c ∈ tg, c ≠ spaceByte) ∧ ∀ c ∈ tb, c ≠ spaceByte := by
  obtain ⟨ti, rest, rfl, hi, h⟩ := exists_token_of_count h
  obtain ⟨tr, rest, rfl, hr, h⟩ := exists_token_of_count h
  obtain ⟨tg, tb, rfl, hg, h⟩ := exists_token_of_count h
  exact ⟨ti, tr, tg, tb, rfl, hi, hr, hg, fun c hc hs => List.count_eq_zero.1 h (hs ▸ hc)⟩

/-- Settles O17: both decoders drop a line with other than three separators, and read four tokens alike. -/
theorem streamingDecoderEqualsDecode : Obligations.StreamingDecoderEqualsDecode := by
  intro cfg line
  by_cases hcount : line.count spaceByte = 3
  · obtain ⟨ti, tr, tg, tb, rfl, hi, hr, hg, hb⟩ := exists_joinTokens_of_count hcount
    exact scan_joinTokens cfg hi hr hg hb
  · rw [scan_of_count cfg hcount, offGrammarLineIsDropped cfg line (.inr (.inl hcount))]

end Sys2Proof

/-! PROOFS. The store commands (40_store_commands.md): what SETPIXEL, SETTARGET and SETSEGTARGET write and leave
unchanged (R120 to R122, R125, R127), and the lines that are a NOP (R123). First each command's new state and what a
read gives in it, then the statements. -/

namespace Sys2Proof.Machine

section

variable {s : State} {i g : Nat} {seg : Segment} (c : Color)

/-! ### What each command changes -/

/-- SETSEGTARGET writes the target file and no other field (R122). -/
theorem setSegTarget_eq (g : Nat) (c : Color) (s : State) :
    setSegTarget g c s = { s with tgt := (segPixels s.cfg g).foldl (fun l i => l.set i c) s.tgt } :=
  memWriteAll_eq .tgt (segPixels s.cfg g) c s

theorem storeOk_setPixel (hs : s.storeOk) (i : Nat) : (setPixel i c s).storeOk :=
  storeOk_memWrite .tgt i c _ (storeOk_memWrite .cur i c s hs)

theorem storeOk_setTarget (hs : s.storeOk) (i : Nat) : (setTarget i c s).storeOk := storeOk_memWrite .tgt i c s hs

theorem storeOk_setSegTarget (hs : s.storeOk) (g : Nat) : (setSegTarget g c s).storeOk :=
  storeOk_memWriteAll .tgt (segPixels s.cfg g) c s hs

/-! ### What a read gives after each command -/

theorem memRead_setPixel (hs : s.storeOk) (hi : i < s.cfg.n) (sp : Space) (j : Nat) :
    memRead sp j (setPixel i c s) = if j = i then c else memRead sp j s := by
  obtain ⟨hcur, htgt⟩ := hs
  rw [setPixel, memRead_memWrite .tgt sp i j c (memWrite .cur i c s) (hi.trans_eq htgt.symm),
    memRead_memWrite .cur sp i j c s (hi.trans_eq hcur.symm)]
  cases sp <;> simp

theorem memRead_setTarget (hs : s.storeOk) (hi : i < s.cfg.n) (j : Nat) :
    memRead .tgt j (setTarget i c s) = if j = i then c else memRead .tgt j s := by
  obtain ⟨-, htgt⟩ := hs
  rw [setTarget, memRead_memWrite .tgt .tgt i j c s (hi.trans_eq htgt.symm)]
  simp

/-- One value written to registers inside the file is what they all read, in whatever order and however often they are
listed (20_memory.md R71). -/
theorem memRead_memWriteAll (sp : Space) (is : List Nat) (h : ∀ i ∈ is, i < (bank sp s).length) (j : Nat) :
    memRead sp j (memWriteAll sp is c s) = if j ∈ is then c else memRead sp j s := by
  rw [memRead, memRead, bank_memWriteAll, List.getD_eq_getElem?_getD, List.getD_eq_getElem?_getD, getElem?_foldl_set]
  by_cases hj : j ∈ is
  · rw [if_pos ⟨hj, h j hj⟩, if_pos hj, Option.getD_some]
  · rw [if_neg (fun hin => hj hin.1), if_neg hj]

theorem memRead_setSegTarget (hs : s.storeOk) (hseg : s.cfg.segs[g]? = some seg) (j : Nat) :
    memRead .tgt j (setSegTarget g c s) = if seg.start ≤ j ∧ j ≤ seg.stop then c else memRead .tgt j s := by
  obtain ⟨-, htgt⟩ := hs
  obtain ⟨-, hrange⟩ := segmentRangeInsideTheStore s.cfg g seg hseg
  have hinside : ∀ i ∈ segPixels s.cfg g, i < s.tgt.length := by
    intro i hi
    obtain ⟨-, -, hn⟩ := (hrange i).1 hi
    exact hn.trans_eq htgt.symm
  rw [setSegTarget, memRead_memWriteAll c .tgt _ hinside, segPixels_of_getElem? hseg]
  simp only [mem_segmentPixels]

end

/-! ### The statements -/

/-- Settles O19: of the two writes, one to each file, a read sees the one to its own file. -/
theorem setPixelWritesCurrentAndTarget : Obligations.SetPixelWritesCurrentAndTarget := by
  intro s i c hs hi
  have hclass : classify s.cfg i c = .setPixel i c := by
    rw [classify_pixel s.cfg c (by omega) (by omega), Int.toNat_natCast]
  exact ⟨hclass, setPixel i c s, rfl, memRead_setPixel c hs hi, rfl, storeOk_setPixel c hs i⟩

/-- Settles O20: one write to the target file. -/
theorem setTargetWritesTargetOnly : Obligations.SetTargetWritesTargetOnly := by
  intro s i c hs hi
  have hclass : classify s.cfg ((i : Int) + s.cfg.n) c = .setTarget i c := by
    rw [classify_target s.cfg c (by omega) (by omega), Int.add_sub_cancel, Int.toNat_natCast]
  exact ⟨hclass, setTarget i c s, rfl, memRead_setTarget c hs hi, rfl, storeOk_setTarget c hs i⟩

/-- Settles O21: the pixels written are the table entry's inclusive range, which lies inside the store. -/
theorem setSegTargetWritesTheWholeSegment : Obligations.SetSegTargetWritesTheWholeSegment := by
  intro s g c seg hs hseg
  obtain ⟨hg, -⟩ := List.getElem?_eq_some_iff.1 hseg
  have hclass : classify s.cfg ((g : Int) + 2 * s.cfg.n) c = .setSegTarget g c := by
    rw [classify_segment s.cfg c (by omega) (by omega), Int.add_sub_cancel, Int.toNat_natCast]
  have hframe : setSegTarget g c s = { s with tgt := (setSegTarget g c s).tgt } := by rw [setSegTarget_eq]
  exact ⟨hclass, setSegTarget g c s, rfl, memRead_setSegTarget c hs hseg, hframe, storeOk_setSegTarget c hs g⟩

/-- Settles O23: each command's new state is the old one with new register files, `CUR` new for SETPIXEL only. -/
theorem storeCommandsTouchOnlyTheStore : Obligations.StoreCommandsTouchOnlyTheStore := by
  intro s i hdraw hclear
  cases i with
  | setPixel i c => exact ⟨setPixel i c s, rfl, rfl, fun h => absurd rfl (h i c)⟩
  | setTarget i c => exact ⟨setTarget i c s, rfl, rfl, fun _ => rfl⟩
  | setSegTarget g c => exact ⟨_, congrArg Host.Outcome.next (setSegTarget_eq g c s), rfl, fun _ => rfl⟩
  | draw => exact absurd rfl hdraw
  | clear => exact absurd rfl hclear
  | nopBelow => exact ⟨s, rfl, rfl, fun _ => rfl⟩
  | nopBeyond => exact ⟨s, rfl, rfl, fun _ => rfl⟩
  | nopMalformed => exact ⟨s, rfl, rfl, fun _ => rfl⟩

/-- Settles O25: a read after the second command is the second colour or a read after the first. -/
theorem laterSegmentWriteWins : Obligations.LaterSegmentWriteWins := by
  intro s g₁ g₂ c₁ c₂ a b hs ha hb
  refine ⟨setSegTarget g₁ c₁ s, setSegTarget g₂ c₂ (setSegTarget g₁ c₁ s), rfl, rfl, fun j => ?_⟩
  have hcfg : (setSegTarget g₁ c₁ s).cfg = s.cfg := by rw [setSegTarget_eq]
  rw [memRead_setSegTarget c₂ (storeOk_setSegTarget c₁ hs g₁) (hcfg ▸ hb), memRead_setSegTarget c₁ hs ha]

/-- Settles O22: such a line decodes to one of the three NOP rows, each of which answers the state it was given. -/
theorem nopChangesNothing : Obligations.NopChangesNothing := by
  refine ⟨fun s => ⟨rfl, rfl, rfl⟩, fun s line e he => ?_, fun s line q hq hx => ?_⟩
  · rw [decode_of_parse_error he]
    rfl
  · rw [decode_of_parse_ok hq]
    rcases hx with hbelow | hbeyond
    · rw [classify_below s.cfg _ hbelow]
      rfl
    · rw [classify_beyond s.cfg _ hbeyond]
      rfl

end Sys2Proof.Machine

/-! PROOFS. DRAW and CLEAR (41_draw_clear.md). First the passes of a DRAW (R140 to R142), then a frame, instruction by
instruction, and the sequencer from any position inside it (R150, R197), then the statements. -/

namespace Sys2Proof.Machine

/-! ### The passes of a DRAW (R140 to R142) -/

/-- `P`, the number of passes a DRAW makes of this store (R142). -/
def State.passes (s : State) : Nat := passCount s.cfg.fadeSpeed s.cur s.tgt

theorem one_le_passes (s : State) : 1 ≤ s.passes := Nat.le_max_left _ _

/-- A pass reports a mismatch exactly when it is not the last. -/
theorem drawPass_nf_iff (s : State) : (drawPass s).nf = true ↔ 1 < s.passes := by
  obtain ⟨-, -, hspeed, -⟩ := cfg_legal s.cfg
  rw [drawPass_nf_eq, decide_eq_true_iff, State.passes]
  by_cases hfar : s.cfg.fadeSpeed < storeDist s.cur s.tgt
  · have hnext : 1 ≤ (drawPass s).passes := one_le_passes (drawPass s)
    rw [passCount_of_far _ _ _ hspeed hfar]
    exact iff_of_true hfar (Nat.lt_add_of_pos_left hnext)
  · rw [passCount_of_near _ _ _ hspeed (Nat.not_lt.1 hfar)]
    exact iff_of_false hfar (Nat.lt_irrefl 1)

/-- A pass that is not the last leaves one pass fewer to make. -/
theorem passes_eq_succ (s : State) (h : 1 < s.passes) : s.passes = (drawPass s).passes + 1 := by
  obtain ⟨-, -, hspeed, -⟩ := cfg_legal s.cfg
  have hnf := (drawPass_nf_iff s).2 h
  rw [drawPass_nf_eq, decide_eq_true_iff] at hnf
  exact passCount_of_far _ _ _ hspeed hnf

/-- Of `k + 1` passes the first may be split off, as well as the last. -/
theorem repeat_drawPass_succ (k : Nat) (s : State) :
    Nat.repeat drawPass (k + 1) s = Nat.repeat drawPass k (drawPass s) := by
  induction k with
  | zero => rfl
  | succ k ih => exact congrArg drawPass ih

/-- The loop of the model makes exactly `P` passes, if its bound allows as many (log 15). -/
theorem drawLoop_eq_repeat (k : Nat) (s : State) (h : s.passes ≤ k) :
    drawLoop k s = Nat.repeat drawPass s.passes s := by
  induction k generalizing s with
  | zero => exact absurd (one_le_passes s) (by omega)
  | succ k ih =>
    rw [drawLoop]
    split
    next hnf =>
      have hsucc := passes_eq_succ s ((drawPass_nf_iff s).1 hnf)
      rw [ih (drawPass s) (by omega), hsucc, repeat_drawPass_succ]
    next hnf =>
      have hlast : s.passes ≤ 1 := Nat.not_lt.1 fun hmore => hnf ((drawPass_nf_iff s).2 hmore)
      rw [Nat.le_antisymm hlast (one_le_passes s)]
      rfl

/-- DRAW is `P` passes, then idle (R140). -/
theorem runDraw_eq_repeat (s : State) : runDraw s = seqIdle (Nat.repeat drawPass s.passes (setOp .draw s)) := by
  obtain ⟨-, -, hspeed, -⟩ := cfg_legal s.cfg
  have hbound : (setOp .draw s).passes ≤ maxPasses := passCount_le_maxPasses _ _ _ hspeed
  rw [runDraw, drawLoop_eq_repeat _ _ hbound]
  rfl

/-- `j` passes leave `j` passes fewer to make. -/
theorem passes_repeat_add (j : Nat) (s : State) (h : j < s.passes) :
    (Nat.repeat drawPass j s).passes + j = s.passes := by
  induction j with
  | zero => rfl
  | succ j ih =>
    have hj := ih (by omega)
    have hsucc := passes_eq_succ (Nat.repeat drawPass j s) (by omega)
    rw [Nat.repeat]
    omega

/-- Of the `P` passes every one but the last reports a mismatch (R140, R141). -/
theorem repeat_drawPass_nf_iff (j : Nat) (s : State) (h : j < s.passes) :
    (Nat.repeat drawPass (j + 1) s).nf = true ↔ j + 1 < s.passes := by
  have hj := passes_repeat_add j s h
  rw [Nat.repeat, drawPass_nf_iff]
  omega

/-- The `P`-th pass reports none. -/
theorem repeat_passes_nf (s : State) : (Nat.repeat drawPass s.passes s).nf = false := by
  obtain ⟨k, hk⟩ := Nat.exists_eq_add_of_le' (one_le_passes s)
  rw [hk, ← Bool.not_eq_true, repeat_drawPass_nf_iff k s (by omega), hk]
  exact Nat.lt_irrefl _

/-- The whole state after `k + 1` passes (R152). -/
theorem repeat_drawPass_eq (k : Nat) (s : State) :
    Nat.repeat drawPass (k + 1) s =
      { s with cur := fadeColorsN s.cfg.fadeSpeed (k + 1) s.cur s.tgt,
               nf := needsFade (fadeColorsN s.cfg.fadeSpeed (k + 1) s.cur s.tgt) s.tgt, ctl := .flush,
               p := 0, b := 23, ph := .idle, dout := false, t := 0, fadeCnt := 0,
               w := s.w ++ drawFrames s.cfg (k + 1) s.cur s.tgt } := by
  induction k generalizing s with
  | zero =>
    rw [drawFrames, drawFrames, List.append_nil]
    rfl
  | succ k ih =>
    rw [repeat_drawPass_succ, ih, drawPass_w, List.append_assoc]
    rfl

/-- A pass that reports no mismatch has landed (42_fade_engine.md R166). -/
theorem eq_of_needsFade_eq_false {cur tgt : List Color} (h : cur.length = tgt.length)
    (hnf : needsFade cur tgt = false) : cur = tgt := by
  rw [needsFade_eq, decide_eq_false_iff_not, Nat.not_lt, Nat.le_zero] at hnf
  exact (storeDist_eq_zero cur tgt h).1 hnf

/-- The whole state at a DRAW's end (R142, R152). -/
theorem runDraw_eq (s : State) (hs : s.storeOk) :
    runDraw s =
      { s with cur := s.tgt, nf := false, ctl := .idle, op := .none, p := 0, b := 23, ph := .idle, dout := false,
               t := 0, fadeCnt := 0, w := s.w ++ drawFrames s.cfg s.passes s.cur s.tgt } := by
  obtain ⟨hcur, htgt⟩ := hs
  obtain ⟨k, hk⟩ := Nat.exists_eq_add_of_le' (one_le_passes s)
  have hlen : s.cur.length = s.tgt.length := hcur.trans htgt.symm
  have hnf : needsFade (fadeColorsN s.cfg.fadeSpeed (k + 1) s.cur s.tgt) s.tgt = false := by
    have hlast := repeat_passes_nf s
    rw [hk, repeat_drawPass_eq] at hlast
    exact hlast
  have hland : fadeColorsN s.cfg.fadeSpeed (k + 1) s.cur s.tgt = s.tgt :=
    eq_of_needsFade_eq_false ((length_fadeColorsN _ _ _ _ hlen).trans hlen) hnf
  rw [runDraw_eq_repeat, hk, repeat_drawPass_eq, setOp_cur, setOp_tgt, setOp_cfg, setOp_w, hnf, hland]
  rfl

/-! ### The instructions of a frame, by number (43_pulse_encoder.md R184, R185) -/

/-- The two instructions of bit `b`, most significant bit first. -/
theorem emitPixel_getElem? (c : Cfg) (v : Color) {b : Nat} (hb : b ≤ 23) :
    (emitPixel c v)[2 * (23 - b)]? = some (.holdHigh (highDur c (v.getLsbD b))) ∧
      (emitPixel c v)[2 * (23 - b) + 1]? = some (.holdLow (lowDur c (v.getLsbD b))) := by
  rw [emitPixel, bitOrder_eq]
  interval_cases b <;> exact ⟨rfl, rfl⟩

theorem frame_cons (c : Cfg) (v : Color) (vs : List Color) : frame c (v :: vs) = emitPixel c v ++ frame c vs := by
  rw [frame, List.flatMap_cons, List.append_assoc]
  rfl

/-- Every pixel has 48 instructions, so those of pixel `p` start at number `48 * p`. -/
theorem frame_getElem?_pixel (c : Cfg) (cur : List Color) {p j : Nat} (hp : p < cur.length) (hj : j < 48) :
    (frame c cur)[48 * p + j]? = (emitPixel c (cur.getD p 0))[j]? := by
  induction cur generalizing p with
  | nil => cases hp
  | cons v vs ih =>
    rw [frame_cons]
    cases p with
    | zero =>
      rw [Nat.mul_zero, Nat.zero_add, List.getElem?_append_left (by rwa [length_emitPixel])]
      rfl
    | succ p =>
      have hsub : 48 * (p + 1) + j - 48 = 48 * p + j := by omega
      rw [List.getElem?_append_right (by rw [length_emitPixel]; omega), length_emitPixel, hsub,
        ih (Nat.lt_of_succ_lt_succ hp), List.getD_cons_succ]

/-- The last instruction of a frame is the reset gap. -/
theorem drop_frame_gap (c : Cfg) (cur : List Color) : (frame c cur).drop (48 * cur.length) = [.holdLow c.treset] := by
  rw [frame, ← length_cells c cur, List.drop_left]

/-! ### The encoder inside a frame (43_pulse_encoder.md R190 to R197) -/

/-- What places the encoder inside a frame: all that its steps rely on. -/
structure State.InFrame (s : State) : Prop where
  curLen : s.cur.length = s.cfg.n
  inFlush : s.ctl = .flush
  pRange : s.p < s.cfg.n
  bRange : s.b ≤ 23
  started : s.ph ≠ .idle

theorem State.Inv.inFrame {s : State} (hs : s.Inv) (hc : s.ctl = .flush) : s.InFrame :=
  { hs with inFlush := hc, started := fun h => hs.phase.1 h hc }

theorem State.InFrame.busy {s : State} (hs : s.InFrame) : s.ctl ≠ .idle := by
  rw [hs.inFlush]
  nofun

/-- The number, in the frame, of the instruction on the line. -/
def framePos (s : State) : Nat :=
  match s.ph with
  | .idle => 0
  | .high => 48 * s.p + 2 * (23 - s.b)
  | .low => 48 * s.p + 2 * (23 - s.b) + 1
  | .reset => 48 * s.cfg.n

theorem framePos_high {s : State} (h : s.ph = .high) : framePos s = 48 * s.p + 2 * (23 - s.b) := by rw [framePos, h]

theorem framePos_low {s : State} (h : s.ph = .low) : framePos s = 48 * s.p + 2 * (23 - s.b) + 1 := by rw [framePos, h]

theorem framePos_reset {s : State} (h : s.ph = .reset) : framePos s = 48 * s.cfg.n := by rw [framePos, h]

/-- A cell stands before the gap. -/
theorem State.InFrame.framePos_lt {s : State} (hs : s.InFrame) (h : s.ph ≠ .reset) : framePos s < 48 * s.cfg.n := by
  have hp := hs.pRange
  cases hph : s.ph with
  | idle => exact absurd hph hs.started
  | high => rw [framePos_high hph]; omega
  | low => rw [framePos_low hph]; omega
  | reset => exact absurd hph h

theorem State.InFrame.framePos_le {s : State} (hs : s.InFrame) : framePos s ≤ 48 * s.cfg.n := by
  by_cases h : s.ph = .reset
  · exact (framePos_reset h).le
  · exact (hs.framePos_lt h).le

/-- The instruction on the line is the frame's, by number. -/
theorem State.InFrame.curInstr_eq {s : State} (hs : s.InFrame) : curInstr s = (frame s.cfg s.cur)[framePos s]? := by
  have hp : s.p < s.cur.length := hs.pRange.trans_eq hs.curLen.symm
  have hb := hs.bRange
  obtain ⟨hhigh, hlow⟩ := emitPixel_getElem? s.cfg (s.cur.getD s.p 0) hb
  rw [curInstr]
  cases hph : s.ph with
  | idle => exact absurd hph hs.started
  | high => rw [framePos_high hph, frame_getElem?_pixel _ _ hp (by omega), hhigh]; rfl
  | low => rw [framePos_low hph, Nat.add_assoc, frame_getElem?_pixel _ _ hp (by omega), hlow]; rfl
  | reset =>
    rw [framePos_reset hph, ← hs.curLen, ← List.head?_drop, drop_frame_gap]
    rfl

/-- After a cell's low time the encoder stands at the frame's next instruction (R193 to R195). -/
theorem State.InFrame.afterLow {s : State} (hs : s.InFrame) (hph : s.ph = .low) :
    (Machine.afterLow s).InFrame ∧ framePos (Machine.afterLow s) = framePos s + 1 ∧
      encRest (Machine.afterLow s) = encRest s := by
  have hp := hs.pRange
  have hb := hs.bRange
  rw [framePos_low hph]
  by_cases hbit : 0 < s.b
  · rw [afterLow_bit s hbit]
    refine ⟨{ hs with started := nofun, bRange := (Nat.sub_le s.b 1).trans hb }, ?_, rfl⟩
    rw [framePos_high rfl, encAt_p, encAt_b]
    omega
  · by_cases hpix : s.p + 1 < s.cfg.n
    · rw [afterLow_pixel s hbit hpix]
      refine ⟨{ hs with started := nofun, pRange := hpix, bRange := Nat.le_refl 23 }, ?_, rfl⟩
      rw [framePos_high rfl, encAt_p, encAt_b]
      omega
    · rw [afterLow_gap s hbit hpix]
      refine ⟨{ hs with started := nofun }, ?_, rfl⟩
      rw [framePos_reset rfl, encAt_cfg]
      omega

/-- A step inside a frame issues the instruction on the line and moves to the frame's next; but for the encoder's
position and timer nothing else changes (R192 to R195). -/
theorem State.InFrame.seqStep {s : State} (hs : s.InFrame) (h : s.ph ≠ .reset) :
    ∃ x, curInstr s = some x ∧ (Machine.seqStep s).InFrame ∧ framePos (Machine.seqStep s) = framePos s + 1 ∧
      encRest (Machine.seqStep s) = encRest (issue x s) := by
  have hstep : Machine.seqStep s = encStep s := by rw [Machine.seqStep, hs.inFlush]
  rw [hstep, encStep, curInstr]
  cases hph : s.ph with
  | idle => exact absurd hph hs.started
  | high =>
    refine ⟨_, rfl, { hs with started := nofun }, ?_, rfl⟩
    rw [framePos_high hph]
    rfl
  | low =>
    have hissued : ∀ x, (issue x s).InFrame := fun x => { hs with }
    obtain ⟨hin, hpos, hrest⟩ := (hissued (.holdLow (lowDur s.cfg (curBit s)))).afterLow hph
    exact ⟨_, rfl, { hin with }, hpos, hrest⟩
  | reset => exact absurd hph h

/-- One instruction issued, and then a list of them. -/
theorem issueAll_issue (x : Sink) (xs : List Sink) (s : State) : issueAll xs (issue x s) = issueAll (x :: xs) s := by
  rw [issueAll, issue_w, List.append_assoc]
  rfl

/-- The rest of the flush, run to its end from where the encoder stands (R185). -/
def flushRest (s : State) : State := encRest (issueAll ((frame s.cfg s.cur).drop (framePos s)) s)

/-- A step inside a frame leaves the rest of the flush to be done. -/
theorem State.InFrame.flushRest_seqStep {s : State} (hs : s.InFrame) (h : s.ph ≠ .reset) :
    flushRest (Machine.seqStep s) = flushRest s := by
  obtain ⟨x, hx, -, hpos, hrest⟩ := hs.seqStep h
  have hcfg : (Machine.seqStep s).cfg = s.cfg := by simpa using congrArg State.cfg hrest
  have hcur : (Machine.seqStep s).cur = s.cur := by simpa using congrArg State.cur hrest
  rw [hs.curInstr_eq] at hx
  obtain ⟨hlt, rfl⟩ := List.getElem?_eq_some_iff.1 hx
  rw [flushRest, flushRest, hcfg, hcur, hpos, List.drop_eq_getElem_cons hlt, ← issueAll_issue]
  exact congrArg (issueAll _) hrest

/-- The step at the reset gap ends the flush (R196). -/
theorem State.InFrame.seqStep_gap {s : State} (hs : s.InFrame) (h : s.ph = .reset) :
    Machine.seqStep s = gapDone (flushRest s) := by
  rw [flushRest, framePos_reset h, ← hs.curLen, drop_frame_gap, Machine.seqStep, hs.inFlush]
  simp only [encStep, h]
  rfl

/-! ### Runs of the sequencer in which the block stays busy -/

/-- `k` steps of the sequencer lead from `s` to `t`, the block being busy until then. -/
def BusyRun (k : Nat) (s t : State) : Prop := seqRun k s = t ∧ ∀ j < k, (seqRun j s).ctl ≠ .idle

theorem BusyRun.refl (s : State) : BusyRun 0 s s := ⟨rfl, nofun⟩

theorem BusyRun.step {k : Nat} {s t : State} (hc : s.ctl ≠ .idle) (h : BusyRun k (seqStep s) t) :
    BusyRun (k + 1) s t := by
  obtain ⟨hrun, hbusy⟩ := h
  refine ⟨hrun, fun j hj => ?_⟩
  cases j with
  | zero => exact hc
  | succ j => exact hbusy j (Nat.lt_of_succ_lt_succ hj)

theorem BusyRun.trans {a b : Nat} {s t u : State} (h : BusyRun a s t) (h' : BusyRun b t u) : BusyRun (a + b) s u := by
  induction a generalizing s with
  | zero =>
    obtain ⟨rfl, -⟩ := h
    rwa [Nat.zero_add]
  | succ a ih =>
    obtain ⟨hrun, hbusy⟩ := h
    rw [Nat.succ_add_eq_add_succ]
    exact (ih ⟨hrun, fun j hj => hbusy (j + 1) (Nat.succ_lt_succ hj)⟩).step (hbusy 0 (Nat.succ_pos a))

/-- From any position inside a frame the flush runs to its end, an instruction a step (R197). -/
theorem State.InFrame.busyRun (k : Nat) {s : State} (hs : s.InFrame) (hk : framePos s + k = 48 * s.cfg.n) :
    BusyRun (k + 1) s (gapDone (flushRest s)) := by
  induction k generalizing s with
  | zero =>
    have hph : s.ph = .reset := by
      by_contra hph
      exact absurd (hs.framePos_lt hph) (by omega)
    rw [← hs.seqStep_gap hph]
    exact (BusyRun.refl _).step hs.busy
  | succ k ih =>
    have hph : s.ph ≠ .reset := fun hph => by rw [framePos_reset hph] at hk; omega
    obtain ⟨-, -, hin, hpos, -⟩ := hs.seqStep hph
    obtain ⟨-, hcfg, -⟩ := seqStep_frame s
    rw [← hs.flushRest_seqStep hph]
    exact (ih hin (by rw [hpos, hcfg]; omega)).step hs.busy

/-- A flush, from its start (R191, R197). -/
theorem busyRun_startFlush (s : State) (hs : s.storeOk) :
    BusyRun (48 * s.cfg.n + 1) (startFlush s) (gapDone (flush (setCtl .flush s))) := by
  obtain ⟨hn, -⟩ := cfg_legal s.cfg
  have hin : (startFlush s).InFrame :=
    { curLen := hs.1, inFlush := rfl, pRange := hn, bRange := Nat.le_refl 23, started := nofun }
  exact hin.busyRun (48 * s.cfg.n) (Nat.zero_add _)

theorem storeOk_fadePass {s : State} (hs : s.storeOk) : (fadePass s).storeOk := by
  obtain ⟨hcur, htgt⟩ := hs
  exact ⟨(length_fadeColors _ _ _ (hcur.trans htgt.symm)).trans hcur, htgt⟩

/-- A draw pass: the fade pass and then the flush (41_draw_clear.md R150). -/
theorem busyRun_drawPass (s : State) (hs : s.storeOk) (hc : s.ctl = .fade) :
    BusyRun (48 * s.cfg.n + 2) s (gapDone (drawPass s)) := by
  have hstep : seqStep s = startFlush (fadePass s) := by rw [seqStep, hc]
  refine BusyRun.step (by rw [hc]; nofun) ?_
  rw [hstep]
  exact busyRun_startFlush (fadePass s) (storeOk_fadePass hs)

/-- The sequencer enters FADE, for the first or the next pass of a DRAW (41_draw_clear.md R150). -/
def enterFade (s : State) : State := { setCtl .fade s with fadeCnt := 0 }

/-- A DRAW that still needs fading makes another pass. -/
theorem gapDone_again {s : State} (h : s.op = .draw ∧ s.nf = true) : gapDone s = enterFade s := if_pos h

/-- Any other flush ends its command. -/
theorem gapDone_done {s : State} (h : ¬(s.op = .draw ∧ s.nf = true)) : gapDone s = seqIdle s := if_neg h

/-- A pass reads neither where the sequencer is nor its counter. -/
theorem repeat_drawPass_enterFade (k : Nat) (s : State) :
    Nat.repeat drawPass (k + 1) (enterFade s) = Nat.repeat drawPass (k + 1) s := by
  rw [repeat_drawPass_succ, repeat_drawPass_succ]
  rfl

/-- The steps of a DRAW from the start of a pass make the passes that are left. -/
theorem busyRun_passes (k : Nat) {s : State} (hs : s.storeOk) (hc : s.ctl = .fade) (hop : s.op = .draw)
    (hk : s.passes = k + 1) :
    BusyRun ((k + 1) * (48 * s.cfg.n + 2)) s (seqIdle (Nat.repeat drawPass (k + 1) s)) := by
  induction k generalizing s with
  | zero =>
    have hpass := busyRun_drawPass s hs hc
    have hlast : ¬(drawPass s).nf = true := by rw [drawPass_nf_iff, hk]; exact Nat.lt_irrefl 1
    rw [gapDone_done (fun h => hlast h.2)] at hpass
    rw [Nat.zero_add, Nat.one_mul]
    exact hpass
  | succ k ih =>
    have hmore : 1 < s.passes := by omega
    have hnext : (drawPass s).passes = k + 1 := Nat.succ_injective ((passes_eq_succ s hmore).symm.trans hk)
    have hpass := busyRun_drawPass s hs hc
    rw [gapDone_again (s := drawPass s) ⟨hop, (drawPass_nf_iff s).2 hmore⟩] at hpass
    have hstore : (enterFade (drawPass s)).storeOk := storeOk_fadePass hs
    have hrest := ih hstore rfl hop hnext
    rw [repeat_drawPass_enterFade] at hrest
    rw [repeat_drawPass_succ, Nat.succ_mul, Nat.add_comm]
    exact hpass.trans hrest

/-- A running DRAW becomes idle within 255 passes (41_draw_clear.md R145; 42_fade_engine.md R174). -/
theorem idle_of_fade {s : State} (hs : s.storeOk) (hc : s.ctl = .fade) (hop : s.op = .draw) :
    ∃ k ≤ 255 * (48 * s.cfg.n + 2), (seqRun k s).ctl = .idle := by
  obtain ⟨-, -, hspeed, -⟩ := cfg_legal s.cfg
  obtain ⟨k, hk⟩ := Nat.exists_eq_add_of_le' (one_le_passes s)
  have hbound : k + 1 ≤ 255 := hk ▸ passCount_le_maxPasses s.cfg.fadeSpeed s.cur s.tgt hspeed
  obtain ⟨hrun, -⟩ := busyRun_passes k hs hc hop hk
  exact ⟨_, Nat.mul_le_mul_right _ hbound, by rw [hrun]; rfl⟩

/-! ### The statements: DRAW -/

/-- Settles O33: the passes are `P` in number, which the bound of the loop allows. -/
theorem drawRepeatsUntilAPassReportsNone : Obligations.DrawRepeatsUntilAPassReportsNone := by
  intro s _
  refine ⟨s.passes, one_le_passes s, congrArg Host.Outcome.next (runDraw_eq_repeat s),
    repeat_passes_nf (setOp .draw s), fun j hj hlt => ?_⟩
  obtain ⟨i, rfl⟩ := Nat.exists_eq_add_of_le' hj
  exact (repeat_drawPass_nf_iff i (setOp .draw s) (Nat.lt_of_succ_lt hlt)).2 hlt

/-- Settles O34: the state after `P` passes, made idle. -/
theorem drawConvergesAndSendsEveryPass : Obligations.DrawConvergesAndSendsEveryPass :=
  fun s hs => congrArg Host.Outcome.next (runDraw_eq s hs)

/-- Settles O35: `P` frames of one size each, and no distance is above 255. -/
theorem drawTraceSize : Obligations.DrawTraceSize := by
  intro s hs
  refine ⟨_, drawConvergesAndSendsEveryPass s hs, ?_, one_le_passes s, ?_⟩
  · obtain ⟨hcur, htgt⟩ := hs
    rw [List.length_append, length_drawFrames _ _ _ _ (hcur.trans htgt.symm), hcur]
  · have hdist := storeDist_le s.cur s.tgt
    exact max_le_max_left 1 (Nat.div_le_div_right (by omega))

/-! ### The statements: CLEAR -/

/-- A pixel of colour zero is 24 zero cells (43_pulse_encoder.md R183, R184). -/
theorem emitPixel_zero (c : Cfg) : emitPixel c 0 = (List.replicate 24 [.holdHigh c.t0h, .holdLow c.t0l]).flatten := by
  rw [emitPixel, bitOrder_eq]
  rfl

/-- A frame of `n` zero pixels is `24 * n` zero cells and the gap (41_draw_clear.md R147). -/
theorem frame_replicate_zero (c : Cfg) (n : Nat) :
    frame c (List.replicate n 0) =
      (List.replicate (24 * n) [Sink.holdHigh c.t0h, Sink.holdLow c.t0l]).flatten ++ [.holdLow c.treset] := by
  induction n with
  | zero => rfl
  | succ n ih =>
    rw [List.replicate_succ, frame_cons, ih, emitPixel_zero, ← List.append_assoc, ← List.flatten_append,
      List.replicate_append_replicate, Nat.mul_succ, Nat.add_comm 24]

/-- Settles O37: the zeroed store, whose frame is zero cells. -/
theorem clearZeroesAndSendsOneFrame : Obligations.ClearZeroesAndSendsOneFrame := by
  intro s hs
  obtain ⟨hcur, htgt⟩ := hs
  have hclear : exec .clear s = .next (runClear s) := rfl
  rw [hclear, runClear, clearStore_eq (setOp .clear s) hcur htgt, ← frame_replicate_zero]
  rfl

/-! ### The statements: the sequencer -/

/-- A DRAW, step by step (R150). -/
theorem busyRun_draw (s : State) (hs : s.storeOk) :
    BusyRun (s.passes * (48 * s.cfg.n + 2)) (beginCmd .draw s) (runDraw s) := by
  obtain ⟨k, hk⟩ := Nat.exists_eq_add_of_le' (one_le_passes s)
  rw [runDraw_eq_repeat, hk]
  have hrun := busyRun_passes k (s := beginCmd .draw s) hs rfl rfl hk
  rw [show beginCmd .draw s = enterFade (setOp .draw s) from rfl, repeat_drawPass_enterFade] at hrun
  exact hrun

/-- A CLEAR, step by step (R150). -/
theorem busyRun_clear (s : State) (hs : s.storeOk) :
    BusyRun (48 * s.cfg.n + 1) (beginCmd .clear s) (runClear s) := by
  obtain ⟨hcur, htgt⟩ := hs
  obtain ⟨hzero, hcfg, hop⟩ : (clearStore (setOp .clear s)).storeOk ∧ (clearStore (setOp .clear s)).cfg = s.cfg ∧
      (clearStore (setOp .clear s)).op = .clear := by
    rw [clearStore_eq (setOp .clear s) hcur htgt]
    exact ⟨⟨List.length_replicate, List.length_replicate⟩, rfl, rfl⟩
  have hrun := busyRun_startFlush _ hzero
  rw [hcfg, gapDone_done (by simp [hop])] at hrun
  exact hrun

/-- Settles O47: DRAW and CLEAR run until they are idle; every other command is done at once. -/
theorem sequencerRefinesExec : Obligations.SequencerRefinesExec := by
  intro s i hs hw _
  obtain ⟨t, ht⟩ := exec_completes i s
  have hidle : t.ctl = .idle := exec_ctl_idle i s t hw.1 ht
  have hstore : s.storeOk := ⟨hs.curLen, hs.tgtLen⟩
  have hrun : ∃ k, BusyRun k (beginCmd i s) t := by
    cases i with
    | draw => cases ht; exact ⟨_, busyRun_draw s hstore⟩
    | clear => cases ht; exact ⟨_, busyRun_clear s hstore⟩
    | _ => cases ht; exact ⟨0, BusyRun.refl _⟩
  obtain ⟨k, hk, hbusy⟩ := hrun
  exact ⟨k, t, ht, hk, hidle, hbusy⟩

/-- Settles O5: with a line pending a busy block makes a step of its sequencer, which reads no line and writes no
target. -/
theorem lineWaitsWhileBusy : Obligations.LineWaitsWhileBusy := by
  intro s line rest hi hc
  obtain ⟨htgt, hcfg, hinput, -⟩ := seqStep_frame s
  exact ⟨_, step_line_busy s line rest hi hc, rfl, hinput, htgt, hcfg⟩

/-- Settles O48: at most the rest of one frame, then at most 255 passes. -/
theorem busyBlockBecomesIdle : Obligations.BusyBlockBecomesIdle := by
  intro s hs
  have hstore : s.storeOk := ⟨hs.curLen, hs.tgtLen⟩
  cases hc : s.ctl with
  | idle => exact ⟨0, Nat.zero_le _, hc⟩
  | fade =>
    obtain ⟨k, hk, hidle⟩ := idle_of_fade hstore hc (pairOk_fade.1 (hc ▸ hs.pair))
    exact ⟨k, by omega, hidle⟩
  | flush =>
    obtain ⟨m, hm⟩ := Nat.exists_eq_add_of_le (hs.inFrame hc).framePos_le
    obtain ⟨hrun, -⟩ := (hs.inFrame hc).busyRun m hm.symm
    by_cases hagain : (flushRest s).op = .draw ∧ (flushRest s).nf = true
    · rw [gapDone_again hagain] at hrun
      obtain ⟨k, hk, hidle⟩ := idle_of_fade (s := enterFade (flushRest s)) hstore rfl hagain.1
      have hcfg : (enterFade (flushRest s)).cfg.n = s.cfg.n := rfl
      exact ⟨m + 1 + k, by omega, by rwa [seqRun_add, hrun]⟩
    · rw [gapDone_done hagain] at hrun
      exact ⟨m + 1, by omega, by rw [hrun]; rfl⟩

end Sys2Proof.Machine

/-! PROOFS. The fade engine (42_fade_engine.md): one channel's steps (R160 to R164), one pixel (R165), one pass and what
it reports (R166 to R168, R172), the fixed point (R173), and a pass at the grain of the clock (R175). -/

namespace Sys2Proof.Machine

/-! ### One channel (R160 to R164) -/

section
variable {speed : Nat} {cur tgt : Byte}

/-- Toward a target that is not below (R161). -/
theorem fadeStep_toNat_up (h : cur.toNat ≤ tgt.toNat) :
    (fadeStep speed cur tgt).toNat = min (cur.toNat + speed) tgt.toNat := by
  rw [fadeStep_toNat, if_pos h]

/-- Toward a target that is below (R161). -/
theorem fadeStep_toNat_down (h : tgt.toNat < cur.toNat) :
    (fadeStep speed cur tgt).toNat = max (cur.toNat - speed) tgt.toNat := by
  rw [fadeStep_toNat, if_neg (Nat.not_le.2 h)]

/-- The step on channel values is the step on integers: nothing wraps (R162). -/
theorem fadeStep_toNat_eq_fadeStepInt :
    ((fadeStep speed cur tgt).toNat : Int) = fadeStepInt speed cur.toNat tgt.toNat := by
  unfold fadeStepInt clamp
  rcases le_or_gt cur.toNat tgt.toNat with h | h
  · rw [fadeStep_toNat_up h]
    split_ifs <;> omega
  · rw [fadeStep_toNat_down h]
    split_ifs <;> omega

/-- A target within the speed is reached (R160). -/
theorem fadeStep_of_near (h : chanDist cur tgt ≤ speed) : fadeStep speed cur tgt = tgt := by
  rw [← chanDist_eq_zero, chanDist_fadeStep, Nat.sub_eq_zero_of_le h]

/-- The value moves toward the target by the distance or the speed, whichever is less (R164). -/
theorem fadeStep_toNat_eq_sign :
    ((fadeStep speed cur tgt).toNat : Int) =
      cur.toNat + ((tgt.toNat : Int) - cur.toNat).sign * (min (chanDist cur tgt) speed : Nat) := by
  unfold chanDist
  rcases lt_trichotomy cur.toNat tgt.toNat with h | h | h
  · rw [fadeStep_toNat_up h.le, Int.sign_eq_one_of_pos (by omega)]
    omega
  · rw [fadeStep_toNat_up h.le, h, Int.sub_self, Int.sign_zero]
    omega
  · rw [fadeStep_toNat_down h, Int.sign_eq_neg_one_of_neg (by omega)]
    omega

/-- Two steps toward one target are one step of both speeds together. -/
theorem fadeStep_fadeStep (a b : Nat) : fadeStep a (fadeStep b cur tgt) tgt = fadeStep (b + a) cur tgt := by
  rw [← BitVec.toNat_inj]
  rcases le_or_gt cur.toNat tgt.toNat with h | h
  · have hb := fadeStep_toNat_up (speed := b) h
    rw [fadeStep_toNat_up (by omega), hb, fadeStep_toNat_up h]
    omega
  · rw [fadeStep_toNat a, fadeStep_toNat_down h, fadeStep_toNat_down h]
    split <;> omega

theorem fadeStep_zero : fadeStep 0 cur tgt = cur := by
  rw [← BitVec.toNat_inj, fadeStep_toNat]
  split <;> omega

/-- `k` steps are one step of `k` times the speed. -/
theorem repeat_fadeStep (speed k : Nat) (cur tgt : Byte) :
    Nat.repeat (fun x => fadeStep speed x tgt) k cur = fadeStep (k * speed) cur tgt := by
  induction k with
  | zero => rw [Nat.zero_mul, fadeStep_zero]; rfl
  | succ k ih => rw [Nat.repeat, ih, fadeStep_fadeStep, Nat.succ_mul]

end

/-- Settles O27: the step on integers, by where the target lies. -/
theorem fadeStepIsTheClampedStep : Obligations.FadeStepIsTheClampedStep := by
  intro speed cur tgt _
  refine ⟨fadeStep_toNat_eq_fadeStepInt, fun hnear => ?_, fun hup => ?_, fun hdown => ?_⟩
  · exact fadeStep_of_near (by unfold chanDist; omega)
  · rw [fadeStep_toNat_up (by omega)]
    omega
  · rw [fadeStep_toNat_down (by omega)]
    omega

/-- Settles O28: with a speed of at least 1 the step has the sign of the distance. -/
theorem fadeStepIsBoundedAndSigned : Obligations.FadeStepIsBoundedAndSigned := by
  intro speed cur tgt hspeed
  rw [← BitVec.toNat_inj]
  rcases le_or_gt cur.toNat tgt.toNat with h | h
  · rw [fadeStep_toNat_up h]
    omega
  · rw [fadeStep_toNat_down h]
    omega

/-- Settles O31: `k` steps are one step of `k` times the speed. -/
theorem channelConvergesLinearly : Obligations.ChannelConvergesLinearly := by
  intro speed k cur tgt _
  rw [repeat_fadeStep, fadeStep_toNat_eq_sign]

/-! ### One pixel (R165) -/

/-- Settles O29: the new channels are packed, and read back one by one. -/
theorem fadePixelStepsChannelsIndependently : Obligations.FadePixelStepsChannelsIndependently :=
  fun _ _ _ => ⟨chG_pack _ _ _, chR_pack _ _ _, chB_pack _ _ _⟩

/-! ### One pass (R166 to R168, R172) -/

/-- Register `i` after a pass. -/
theorem memRead_fadePass (s : State) (hs : s.storeOk) {i : Nat} (hi : i < s.cfg.n) :
    memRead .cur i (fadePass s) = fadePixel s.cfg.fadeSpeed (memRead .cur i s) (memRead .tgt i s) := by
  obtain ⟨hcur, htgt⟩ := hs
  simp [memRead, bank, fadeColors, List.getD_eq_getElem?_getD, hcur, htgt, hi]

/-- A pixel still differs: the files are not equal (R166). -/
theorem needsFade_iff_ne {cur tgt : List Color} (h : cur.length = tgt.length) :
    needsFade cur tgt = true ↔ cur ≠ tgt := by
  rw [needsFade_eq, decide_eq_true_iff, Nat.pos_iff_ne_zero, Ne, storeDist_eq_zero cur tgt h]

/-- Two files of the store differ exactly where a register reads differently. -/
theorem cur_ne_tgt_iff (s : State) (hs : s.storeOk) :
    s.cur ≠ s.tgt ↔ ∃ i < s.cfg.n, memRead .cur i s ≠ memRead .tgt i s := by
  obtain ⟨hcur, htgt⟩ := hs
  rw [← not_iff_not, not_not]
  push Not
  constructor
  · intro heq i _
    rw [memRead, memRead, bank, bank, heq]
  · intro hread
    refine List.ext_getElem (hcur.trans htgt.symm) fun i h₁ h₂ => ?_
    have hi := hread i (hcur ▸ h₁)
    rwa [memRead, memRead, bank, bank, List.getD_eq_getElem _ _ h₁, List.getD_eq_getElem _ _ h₂] at hi

/-- `nf` after a pass tells whether the store has not converged (R166, R167). -/
theorem fadePass_nf_iff (s : State) (hs : s.storeOk) : (fadePass s).nf = true ↔ (fadePass s).cur ≠ (fadePass s).tgt := by
  obtain ⟨hcur, htgt⟩ := storeOk_fadePass hs
  exact needsFade_iff_ne (hcur.trans htgt.symm)

/-- Settles O30: the pass register by register; `nf` compares the new files. -/
theorem fadePassStepsEveryPixel : Obligations.FadePassStepsEveryPixel := by
  intro s hs
  have hpass := storeOk_fadePass hs
  exact ⟨fun i hi => memRead_fadePass s hs hi, (fadePass_nf_iff s hs).trans (cur_ne_tgt_iff _ hpass), rfl, hpass⟩

/-- Settles O32: `k` passes bring the largest distance down by `k` times the speed. -/
theorem passReportsMismatchByDistance : Obligations.PassReportsMismatchByDistance := by
  intro speed k cur tgt _ _
  rw [needsFade_eq, storeDist_fadeColorsN]
  exact decide_eq_decide.2 Nat.sub_pos_iff_lt

/-! ### The fixed point (R173) -/

section
variable {s : State} (hc : s.converged)
include hc

theorem State.converged.fadeColors_eq (speed : Nat) : fadeColors speed s.cur s.tgt = s.cur := by
  rw [← hc, fadeColors_self]

theorem State.converged.fadePass_nf : (fadePass s).nf = false := by
  rw [Machine.fadePass_nf, hc.fadeColors_eq, needsFade_eq, hc, (storeDist_eq_zero _ _ rfl).2 rfl]
  rfl

/-- A DRAW makes one pass. -/
theorem State.converged.passes_eq_one : s.passes = 1 := by
  have hlast : ¬1 < s.passes := by
    rw [← drawPass_nf_iff, Bool.not_eq_true]
    exact hc.fadePass_nf
  exact Nat.le_antisymm (Nat.not_lt.1 hlast) (one_le_passes s)

theorem State.converged.runDraw_eq : runDraw s = seqIdle (drawPass (setOp .draw s)) := by
  rw [runDraw_eq_repeat, hc.passes_eq_one]
  rfl

end

/-- Settles O36: a pass over a converged store gives the same colours, so the first pass of a DRAW is its last. -/
theorem drawOnAConvergedStoreIsIdempotent : Obligations.DrawOnAConvergedStoreIsIdempotent := by
  intro s _ hc
  refine ⟨hc.fadeColors_eq _, rfl, hc.fadePass_nf, seqIdle (drawPass (setOp .draw s)),
    congrArg Host.Outcome.next hc.runDraw_eq, rfl, hc.fadePass_nf, hc.fadeColors_eq _, rfl, ?_⟩
  rw [seqIdle_w, drawPass_w, setOp_cur, setOp_tgt, hc.fadeColors_eq]
  rfl

/-! ### A pass at the grain of the clock (R175) -/

theorem one_le_fadeCycles (c : Cfg) : 1 ≤ fadeCycles c := Nat.le_max_left _ _

theorem clockRun_concat (qs : List Pins) (q : Pins) (s : State) :
    clockRun (qs ++ [q]) s = clockEdge q (clockRun qs s) := List.foldl_append

/-- Before the last cycle of a pass the edges only count (log 11). -/
theorem clockRun_inside_fade (qs : List Pins) (s : State) (hr : ∀ q ∈ qs, q.rst = false) (hh : s.held = false)
    (hc : s.ctl = .fade) (hlt : s.fadeCnt + qs.length < fadeCycles s.cfg) :
    clockRun qs s = { s with fadeCnt := s.fadeCnt + qs.length } := by
  induction qs generalizing s with
  | nil => rfl
  | cons q qs ih =>
    rw [List.length_cons] at hlt
    have hedge := clockEdge_fade q s (hr q List.mem_cons_self) hh hc
    rw [if_pos (by omega)] at hedge
    have hrest := ih { s with fadeCnt := s.fadeCnt + 1 } (fun q' hq => hr q' (List.mem_cons_of_mem q hq)) hh hc
      (show s.fadeCnt + 1 + qs.length < fadeCycles s.cfg by omega)
    rw [List.length_cons, Nat.add_comm qs.length, ← Nat.add_assoc]
    exact (congrArg (clockRun qs) hedge).trans hrest

/-- The edge at the last cycle makes the pass and starts its frame (R150; log 11). -/
theorem clockEdge_last_of_fade (q : Pins) (s : State) (hr : q.rst = false) (hh : s.held = false) (hc : s.ctl = .fade)
    (hlast : s.fadeCnt + 1 = fadeCycles s.cfg) : clockEdge q s = startFlush (fadePass s) := by
  rw [clockEdge_fade q s hr hh hc, if_neg (Nat.not_lt.2 hlast.ge), seqStep, hc]

/-- Settles O58: every edge but the last counts, which changes no line level, no colour and no trace. -/
theorem fadePassTakesItsCycles : Obligations.FadePassTakesItsCycles := by
  intro s ps hs hc hcnt hlen hr
  have hh : s.held = false := hs.running_of_busy (by rw [hc]; nofun)
  have hinside : ∀ qs : List Pins, (∀ q ∈ qs, q.rst = false) → qs.length < fadeCycles s.cfg →
      clockRun qs s = { s with fadeCnt := qs.length } := by
    intro qs hqs hlt
    have hrun := clockRun_inside_fade qs s hqs hh hc (by omega)
    rwa [hcnt, Nat.zero_add] at hrun
  constructor
  · have hone := one_le_fadeCycles s.cfg
    rcases List.eq_nil_or_concat' ps with rfl | ⟨qs, q, rfl⟩
    · exact absurd hlen (by rw [List.length_nil]; omega)
    · rw [List.length_append, List.length_singleton] at hlen
      have hrun := hinside qs (fun q' hq => hr q' (List.mem_append_left _ hq)) hlen.le
      have hrst : q.rst = false := hr q (List.mem_append_right _ List.mem_cons_self)
      rw [clockRun_concat, hrun]
      exact clockEdge_last_of_fade q _ hrst hh hc hlen
  · intro k hk
    have hlow : s.dout = false := by rw [← hs.encRest_eq (by rw [hc]; nofun), encRest_dout]
    rw [hinside (ps.take k) (fun q hq => hr q (List.mem_of_mem_take hq)) (by rw [List.length_take]; omega)]
    exact ⟨hlow, rfl, rfl⟩

end Sys2Proof.Machine

/-! PROOFS. The pulse encoder (43_pulse_encoder.md): a frame by its bits (R183 to R189), its waveform (R198, R199), the
encoder machine row by row (R190 to R197) and what it reads (R212), and the encoder at the grain of the clock with the
command port (R203 to R207). -/

namespace Sys2Proof.Machine

/-! ### A frame, instruction by instruction (R183 to R189) -/

/-- Settles O38: the two cells of `emitBit`. -/
theorem emitBitShapes : Obligations.EmitBitShapes := fun _ => ⟨rfl, rfl⟩

/-- Settles O39: the two instructions of each bit of a pixel. -/
theorem emitPixelMostSignificantFirst : Obligations.EmitPixelMostSignificantFirst :=
  fun c v => ⟨length_emitPixel c v, fun _ hb => emitPixel_getElem? c v (Nat.le_of_lt_succ hb)⟩

/-- Settles O40: the trace grows by the frame, and every legal reset gap is above the minimum. -/
theorem flushSendsTheSnapshotAndTheGap : Obligations.FlushSendsTheSnapshotAndTheGap := by
  intro s
  obtain ⟨-, -, -, -, hgap, -⟩ := cfg_legal s.cfg
  exact ⟨(List.append_assoc ..).symm, hgap, rfl, rfl, rfl⟩

/-- Settles O42: instructions `2k` and `2k + 1` are those of bit `23 - k % 24` of pixel `k / 24`. -/
theorem frameInstructionByNumber : Obligations.FrameInstructionByNumber := by
  intro c cur
  refine ⟨length_frame c cur, ?_, fun k hk => ?_⟩
  · rw [← List.head?_drop, drop_frame_gap]
    rfl
  · have hp : k / 24 < cur.length := Nat.div_lt_of_lt_mul hk
    have hnum : 2 * k = 48 * (k / 24) + 2 * (23 - (23 - k % 24)) := by omega
    obtain ⟨hhigh, hlow⟩ := emitPixel_getElem? c (cur.getD (k / 24) 0) (Nat.sub_le 23 (k % 24))
    rw [hnum, Nat.add_assoc, frame_getElem?_pixel c cur hp (by omega), frame_getElem?_pixel c cur hp (by omega)]
    exact ⟨hhigh, hlow⟩

/-! ### A frame as a list of bits -/

/-- The bits of a pixel in the order they are sent (R184). -/
def pixelBits (v : Color) : List Bool := bitOrder.map (fun b => v.getLsbD b)

/-- The bits of all pixels in the order they are sent (R189). -/
def frameBits (cur : List Color) : List Bool := cur.flatMap pixelBits

/-- The cells of a list of pixels are the cells of their bits. -/
theorem cells_eq_frameBits (c : Cfg) (cur : List Color) :
    cur.flatMap (emitPixel c) = (frameBits cur).flatMap (emitBit c) := by
  rw [frameBits, List.flatMap_assoc]
  simp only [pixelBits, List.flatMap_map]
  rfl

theorem frame_eq_frameBits (c : Cfg) (cur : List Color) :
    frame c cur = (frameBits cur).flatMap (emitBit c) ++ [.holdLow c.treset] := by
  rw [frame, cells_eq_frameBits]

/-- The last bit sent is bit 0 of the last pixel. -/
theorem exists_frameBits_append (cur : List Color) (x : Color) :
    ∃ bits, frameBits (cur ++ [x]) = bits ++ [x.getLsbD 0] := by
  refine ⟨frameBits cur ++ (pixelBits x).dropLast, ?_⟩
  rw [frameBits, List.flatMap_append, List.append_assoc, pixelBits, bitOrder_eq]
  rfl

/-! ### The length of a frame (R189; 70_reset_and_hazards.md R271) -/

theorem count_true_pixelBits (v : Color) : (pixelBits v).count true = onesOf v := by
  rw [pixelBits, List.count, List.countP_map, onesOf, ← List.countP_eq_length_filter]
  congr 1
  funext b
  simp

/-- `ones` counts the 1 bits sent. -/
theorem count_true_frameBits (cur : List Color) : (frameBits cur).count true = ones cur := by
  induction cur with
  | nil => rfl
  | cons v vs ih =>
    rw [frameBits, List.flatMap_cons, List.count_append, count_true_pixelBits, ← frameBits, ih]
    rfl

theorem length_frameBits (cur : List Color) : (frameBits cur).length = 24 * cur.length := by
  simp [frameBits, pixelBits, bitOrder, List.length_flatMap, Nat.mul_comm]

@[simp] theorem highDur_true (c : Cfg) : highDur c true = c.t1h := rfl
@[simp] theorem highDur_false (c : Cfg) : highDur c false = c.t0h := rfl
@[simp] theorem lowDur_true (c : Cfg) : lowDur c true = c.t1l := rfl
@[simp] theorem lowDur_false (c : Cfg) : lowDur c false = c.t0l := rfl

theorem totalNs_emitBit (c : Cfg) (v : Bool) : totalNs (emitBit c v) = highDur c v + lowDur c v := rfl

/-- Every bit takes the two durations of its cell. -/
theorem totalNs_cells (c : Cfg) (bits : List Bool) :
    totalNs (bits.flatMap (emitBit c)) =
      bits.count true * (c.t1h + c.t1l) + bits.count false * (c.t0h + c.t0l) := by
  induction bits with
  | nil => simp [totalNs]
  | cons v vs ih =>
    rw [List.flatMap_cons, totalNs_append, ih]
    cases v with
    | true =>
      rw [List.count_cons_self, List.count_cons_of_ne (by decide), totalNs_emitBit, highDur_true, lowDur_true]
      ring
    | false =>
      rw [List.count_cons_self, List.count_cons_of_ne (by decide), totalNs_emitBit, highDur_false, lowDur_false]
      ring

/-- Settles O43: every bit sent is a 1 or a 0, and takes the time of its cell. -/
theorem frameDuration : Obligations.FrameDuration := by
  intro c cur
  have hsplit : ones cur + (frameBits cur).count false = 24 * cur.length := by
    rw [← count_true_frameBits, ← length_frameBits, List.count_true_add_count_false]
  have hzeros : (frameBits cur).count false = 24 * cur.length - ones cur := by omega
  refine ⟨?_, by omega⟩
  rw [frame_eq_frameBits, totalNs_append, totalNs_cells, count_true_frameBits, hzeros]
  rfl

/-! ### The waveform of a frame (R198, R199) -/

/-- The two intervals of a bit cell. -/
def cellWave (c : Cfg) (v : Bool) : List (Bool × Nat) := [(true, highDur c v), (false, lowDur c v)]

/-- A cell merges with nothing before an interval that is high. -/
theorem wave_emitBit_append (c : Cfg) (v : Bool) {xs : List Sink} {d : Nat} {rest : List (Bool × Nat)}
    (h : wave xs = (true, d) :: rest) : wave (emitBit c v ++ xs) = cellWave c v ++ wave xs := by
  simp [emitBit, wave, h, sinkLevel, sinkDur, cellWave]

/-- So no two cells merge. -/
theorem wave_cells_append (c : Cfg) (bits : List Bool) {xs : List Sink} {d : Nat} {rest : List (Bool × Nat)}
    (h : wave xs = (true, d) :: rest) :
    wave (bits.flatMap (emitBit c) ++ xs) = bits.flatMap (cellWave c) ++ wave xs := by
  induction bits with
  | nil => rfl
  | cons v vs ih =>
    have hhigh : ∃ d rest, wave (vs.flatMap (emitBit c) ++ xs) = (true, d) :: rest := by
      rw [ih]
      cases vs with
      | nil => exact ⟨d, rest, h⟩
      | cons u us => exact ⟨_, _, rfl⟩
    obtain ⟨_, _, hhigh⟩ := hhigh
    rw [List.flatMap_cons, List.append_assoc, wave_emitBit_append c v hhigh, ih, List.flatMap_cons, List.append_assoc]

/-- The waveform of one bit or more: the intervals of their cells. -/
theorem wave_cells (c : Cfg) (bits : List Bool) (v : Bool) :
    wave ((bits ++ [v]).flatMap (emitBit c)) = (bits ++ [v]).flatMap (cellWave c) := by
  rw [List.flatMap_append, List.flatMap_append, List.flatMap_singleton, List.flatMap_singleton]
  exact wave_cells_append c bits rfl

/-- With a reset gap after them, the low of the last cell and the gap are one interval. -/
theorem wave_cells_gap (c : Cfg) (bits : List Bool) (v : Bool) (d : Nat) :
    wave ((bits ++ [v]).flatMap (emitBit c) ++ [.holdLow d]) =
      bits.flatMap (cellWave c) ++ [(true, highDur c v)] ++ [(false, lowDur c v + d)] := by
  rw [List.flatMap_append, List.flatMap_singleton, List.append_assoc, List.append_assoc]
  exact wave_cells_append c bits rfl

theorem highDur_le (c : Cfg) (v : Bool) : highDur c v ≤ max c.t0h c.t1h := by
  cases v
  · exact Nat.le_max_left ..
  · exact Nat.le_max_right ..

theorem lowDur_le (c : Cfg) (v : Bool) : lowDur c v ≤ max c.t0l c.t1l := by
  cases v
  · exact Nat.le_max_left ..
  · exact Nat.le_max_right ..

/-- Every interval of a cell is within the configured bit times (R199). -/
theorem cellWave_le (c : Cfg) (v : Bool) : ∀ iv ∈ cellWave c v,
    (iv.1 = true → iv.2 ≤ max c.t0h c.t1h) ∧ (iv.1 = false → iv.2 ≤ max c.t0l c.t1l) := by
  intro iv hiv
  rcases List.mem_pair.1 hiv with rfl | rfl
  · exact ⟨fun _ => highDur_le c v, nofun⟩
  · exact ⟨nofun, fun _ => lowDur_le c v⟩

/-- Settles O44: the intervals are those of the cells, and only the last of them merges with the gap. -/
theorem noLongLowInsideAFrame : Obligations.NoLongLowInsideAFrame := by
  intro c cur x
  obtain ⟨bits, hbits⟩ := exists_frameBits_append cur x
  rw [frame_eq_frameBits, cells_eq_frameBits, hbits, wave_cells_gap, wave_cells]
  refine ⟨fun iv hiv => ?_, List.getLast?_concat, ?_⟩
  · obtain ⟨v, -, hv⟩ := List.mem_flatMap.1 hiv
    exact cellWave_le c v iv hv
  · rw [List.dropLast_concat, List.flatMap_append, List.flatMap_singleton, cellWave,
      List.dropLast_append_of_ne_nil (List.cons_ne_nil _ _)]
    rfl

/-! ### The encoder machine (R190 to R197) -/

theorem seqStep_flush {s : State} (hc : s.ctl = .flush) : seqStep s = encStep s := by rw [seqStep, hc]

theorem encStep_idle {s : State} (h : s.ph = .idle) : encStep s = startFlush s := by rw [encStep, h]

theorem encStep_high {s : State} (h : s.ph = .high) :
    encStep s = loadTimer (encAt .low s.p s.b (issue (.holdHigh (highDur s.cfg (curBit s))) s)) := by
  rw [encStep, h]

theorem encStep_low {s : State} (h : s.ph = .low) :
    encStep s = loadTimer (afterLow (issue (.holdLow (lowDur s.cfg (curBit s))) s)) := by
  rw [encStep, h]

theorem encStep_reset {s : State} (h : s.ph = .reset) :
    encStep s = gapDone (encRest (issue (.holdLow s.cfg.treset) s)) := by
  rw [encStep, h]

theorem setCtl_eq_self {s : State} {c : Ctl} (hc : s.ctl = c) : setCtl c s = s := by
  subst hc
  rfl

/-- Settles O45: the rows of the table by phase, and the three of E_LOW by where the encoder goes after the cell. -/
theorem encoderStepTable : Obligations.EncoderStepTable := by
  refine ⟨fun s hc hph => ?idle, fun s hc hph => ?high, fun s hc hph hb => ?bit, fun s hc hph hb hp => ?pixel,
    fun s hc hph hb hp => ?gap, fun s hc hph => ?reset⟩
  case idle =>
    rw [seqStep_flush hc, encStep_idle hph, startFlush, setCtl_eq_self hc]
    rfl
  case high =>
    rw [seqStep_flush hc, encStep_high hph]
    rfl
  case bit =>
    rw [seqStep_flush hc, encStep_low hph, afterLow_bit (issue _ s) hb]
    rfl
  case pixel =>
    rw [seqStep_flush hc, encStep_low hph, afterLow_pixel (issue _ s) hb.not_gt hp]
    rfl
  case gap =>
    rw [seqStep_flush hc, encStep_low hph, afterLow_gap (issue _ s) hb.not_gt hp.not_lt]
    rfl
  case reset =>
    rw [seqStep_flush hc, encStep_reset hph]
    rfl

/-- `k` steps inside a frame move the encoder on by `k` instructions and leave the rest of the flush to be done. -/
theorem State.InFrame.seqRun (k : Nat) {s : State} (hs : s.InFrame) (hk : framePos s + k ≤ 48 * s.cfg.n) :
    (Machine.seqRun k s).InFrame ∧ framePos (Machine.seqRun k s) = framePos s + k ∧
      flushRest (Machine.seqRun k s) = flushRest s := by
  induction k generalizing s with
  | zero => exact ⟨hs, rfl, rfl⟩
  | succ k ih =>
    have hph : s.ph ≠ .reset := fun hph => by rw [framePos_reset hph] at hk; omega
    obtain ⟨-, -, hin, hpos, -⟩ := hs.seqStep hph
    obtain ⟨-, hcfg, -⟩ := seqStep_frame s
    obtain ⟨hin', hpos', hrest⟩ := ih hin (by rw [hpos, hcfg]; omega)
    exact ⟨hin', by rw [Machine.seqRun, hpos', hpos]; omega, hrest.trans (hs.flushRest_seqStep hph)⟩

@[simp] theorem flushRest_cur (s : State) : (flushRest s).cur = s.cur := rfl

@[simp] theorem flushRest_cfg (s : State) : (flushRest s).cfg = s.cfg := rfl

@[simp] theorem flushRest_w (s : State) : (flushRest s).w = s.w ++ (frame s.cfg s.cur).drop (framePos s) := rfl

/-- From a frame's first instruction the rest of the flush is the whole of it. -/
theorem flushRest_of_first {s : State} (h : framePos s = 0) : flushRest s = flush s := by
  rw [flushRest, h]
  rfl

/-- After `k` steps from its start the encoder has issued the first `k` instructions of the frame, since it has the
others still to issue. -/
theorem State.InFrame.seqRun_first (k : Nat) {s : State} (hs : s.InFrame) (h : framePos s = 0)
    (hk : k ≤ 48 * s.cfg.n) :
    (Machine.seqRun k s).ctl = .flush ∧ (Machine.seqRun k s).w = s.w ++ (frame s.cfg s.cur).take k ∧
      (Machine.seqRun k s).cur = s.cur := by
  obtain ⟨hin, hpos, hrest⟩ := hs.seqRun k (by omega)
  rw [flushRest_of_first h] at hrest
  have hcur : (Machine.seqRun k s).cur = s.cur := by simpa using congrArg State.cur hrest
  have hcfg : (Machine.seqRun k s).cfg = s.cfg := by simpa using congrArg State.cfg hrest
  have hw : (Machine.seqRun k s).w ++ (frame s.cfg s.cur).drop k =
      (s.w ++ (frame s.cfg s.cur).take k) ++ (frame s.cfg s.cur).drop k := by
    rw [List.append_assoc, List.take_append_drop]
    simpa [hpos, h, hcfg, hcur] using congrArg State.w hrest
  exact ⟨hin.inFlush, List.append_cancel_right hw, hcur⟩

/-- Settles O46: the run through the frame, and the step at the gap. -/
theorem encoderMachineIssuesTheFrame : Obligations.EncoderMachineIssuesTheFrame := by
  intro s ⟨hcur, _⟩ hc hph hp hb
  obtain ⟨hn, -⟩ := cfg_legal s.cfg
  have hin : s.InFrame :=
    { curLen := hcur, inFlush := hc, pRange := hp ▸ hn, bRange := hb.le, started := by rw [hph]; nofun }
  have hfirst : framePos s = 0 := by rw [framePos_high hph, hp, hb]
  obtain ⟨hrun, -⟩ := hin.busyRun (48 * s.cfg.n) (by omega)
  rw [flushRest_of_first hfirst] at hrun
  exact ⟨hrun, fun k hk => hin.seqRun_first k hfirst hk⟩

/-! ### What the encoder reads and writes (R212) -/

theorem highDur_congr {c₁ c₂ : Cfg} (h1 : c₁.t1h = c₂.t1h) (h0 : c₁.t0h = c₂.t0h) : highDur c₁ = highDur c₂ := by
  funext v
  rw [highDur, highDur, h1, h0]

theorem lowDur_congr {c₁ c₂ : Cfg} (h1 : c₁.t1l = c₂.t1l) (h0 : c₁.t0l = c₂.t0l) : lowDur c₁ = lowDur c₂ := by
  funext v
  rw [lowDur, lowDur, h1, h0]

/-- A step of the encoder writes neither register file. -/
theorem encStep_store (s : State) : (encStep s).cur = s.cur ∧ (encStep s).tgt = s.tgt := by
  cases hph : s.ph with
  | idle =>
    rw [encStep_idle hph]
    exact ⟨rfl, rfl⟩
  | high =>
    rw [encStep_high hph]
    exact ⟨rfl, rfl⟩
  | low =>
    rw [encStep_low hph, afterLow_frame]
    exact ⟨rfl, rfl⟩
  | reset =>
    rw [encStep_reset hph, gapDone_frame]
    exact ⟨rfl, rfl⟩

/-- Settles O41: of the configuration the encoder reads the five durations, through the two times of a cell. -/
theorem encoderReadsOnlyCurrentColours : Obligations.EncoderReadsOnlyCurrentColours := by
  refine ⟨fun _ _ _ => rfl, fun c₁ c₂ cur h1h h1l h0h h0l hgap => ?_, fun s c l f h1h h1l h0h h0l hgap => ?_,
    fun s => ⟨rfl, rfl, encStep_store s⟩⟩
  · have hbit : emitBit c₁ = emitBit c₂ := by
      funext v
      rw [emitBit, emitBit, highDur_congr h1h h0h, lowDur_congr h1l h0l]
    rw [frame_eq_frameBits, frame_eq_frameBits, hbit, hgap]
  · unfold curInstr
    rw [highDur_congr h1h h0h, lowDur_congr h1l h0l, hgap]
    rfl

/-! ### Durations in clock cycles (R203 to R205, R210) -/

/-- Settles O54: at least one cycle is needed, so the number of cycles is the quotient rounded up. -/
theorem cyclesRoundUp : Obligations.CyclesRoundUp := by
  intro c d hd
  have hclk := one_le_clkPeriodNs c
  have hone : 1 ≤ (d + c.clkPeriodNs - 1) / c.clkPeriodNs := (Nat.one_le_div_iff hclk).2 (by omega)
  have hdiv := Nat.div_add_mod' (d + c.clkPeriodNs - 1) c.clkPeriodNs
  have hmod := Nat.mod_lt (d + c.clkPeriodNs - 1) hclk
  rw [realisedNs, cycles, Nat.max_eq_right hone]
  omega

/-- Edges with `rst = 0`, each of which moves a counter on, move it on by their number. -/
theorem clockRun_counts (count : Nat → State) (n : Nat)
    (hstep : ∀ j < n, ∀ q : Pins, q.rst = false → clockEdge q (count j) = count (j + 1)) (qs : List Pins)
    (hr : ∀ q ∈ qs, q.rst = false) (hlen : qs.length ≤ n) : clockRun qs (count 0) = count qs.length := by
  induction qs using List.reverseRecOn with
  | nil => rfl
  | append_singleton qs q ih =>
    rw [List.length_append, List.length_singleton] at hlen ⊢
    obtain ⟨hqs, hq⟩ := List.forall_mem_append.1 hr
    rw [clockRun_concat, ih hqs (by omega)]
    exact hstep qs.length hlen q (hq q List.mem_cons_self)

/-- Inside a sink instruction the edges only count the timer down (R205). -/
theorem clockRun_inside_instr (qs : List Pins) (s : State) (hr : ∀ q ∈ qs, q.rst = false) (hh : s.held = false)
    (hc : s.ctl = .flush) (hlt : qs.length < s.t) : clockRun qs s = { s with t := s.t - qs.length } := by
  refine clockRun_counts (fun j => { s with t := s.t - j }) (s.t - 1) (fun j hj q hq => ?_) qs hr (by omega)
  have hmore : 1 < s.t - j := by omega
  exact (clockEdge_flush q { s with t := s.t - j } hq hh hc).trans (if_pos hmore)

/-- The edge at the last cycle of an instruction makes the encoder's step, which does not read the timer. -/
theorem clockEdge_last_of_instr (q : Pins) (s : State) (hr : q.rst = false) (hh : s.held = false) (hc : s.ctl = .flush)
    (hph : s.ph ≠ .idle) : clockEdge q { s with t := 1 } = seqStep s :=
  ((clockEdge_flush q { s with t := 1 } hr hh hc).trans (if_neg (Nat.lt_irrefl 1))).trans (seqStep_timer s 1 hc hph)

/-- Settles O53: every edge but the last counts the timer down, and the last finds it at 1. -/
theorem instructionTakesItsCycles : Obligations.InstructionTakesItsCycles := by
  intro s ps hs hc ht hlen hr
  have hh : s.held = false := hs.running_of_busy (by rw [hc]; nofun)
  have hph : s.ph ≠ .idle := fun h => hs.phase.1 h hc
  rw [← ht] at hlen
  constructor
  · rcases List.eq_nil_or_concat' ps with rfl | ⟨qs, q, rfl⟩
    · exact absurd (hs.timerRuns hc).1 (by rw [← hlen]; decide)
    · obtain ⟨hqs, hq⟩ := List.forall_mem_append.1 hr
      rw [List.length_append, List.length_singleton] at hlen
      have hone : s.t - qs.length = 1 := by omega
      rw [clockRun_concat, clockRun_inside_instr qs s hqs hh hc (by omega), hone]
      exact clockEdge_last_of_instr q s (hq q List.mem_cons_self) hh hc hph
  · intro k hk
    rw [clockRun_inside_instr (ps.take k) s (fun q hq => hr q (List.mem_of_mem_take hq)) hh hc
      (by rw [List.length_take]; omega)]

/-! ### The command port (R207) -/

/-- Settles O56: both edges are those of a fade pass or of a sink instruction, which read no port. -/
theorem busyBlockTakesNoByte : Obligations.BusyBlockTakesNoByte := by
  intro s q q' hc hh hr hr'
  refine ⟨by simp [cmdReady, hc], ?_⟩
  cases hctl : s.ctl with
  | idle => exact absurd hctl hc
  | fade => rw [clockEdge_fade q s hr hh hctl, clockEdge_fade q' s hr' hh hctl]
  | flush => rw [clockEdge_flush q s hr hh hctl, clockEdge_flush q' s hr' hh hctl]

/-- Bytes taken before the end of a line change the decoder only, and idle cycles between them change nothing. -/
theorem clockRun_bytes (ps : List Pins) (s : State) (hc : s.ctl = .idle) (hh : s.held = false) (h0 : s.storeWait = 0)
    (hps : ∀ r ∈ ps, r.rst = false ∧ (r.valid = true → r.last = false)) :
    clockRun ps s = { s with dec := scanBytes s.cfg s.dec ((ps.filter (·.valid)).map (·.data)) } := by
  induction ps generalizing s with
  | nil => rfl
  | cons r ps ih =>
    obtain ⟨⟨hr, hlast⟩, hrest⟩ := List.forall_mem_cons.1 hps
    have hedge := clockEdge_idle r s hr hh hc h0
    cases hv : r.valid with
    | false =>
      rw [hv, if_neg nofun] at hedge
      rw [List.filter_cons_of_neg (by simp [hv])]
      exact (congrArg (clockRun ps) hedge).trans (ih s hc hh h0 hrest)
    | true =>
      rw [hv, if_pos rfl, takeByte, hlast hv, if_neg nofun] at hedge
      rw [List.filter_cons_of_pos hv]
      exact (congrArg (clockRun ps) hedge).trans (ih { s with dec := scanByte s.cfg s.dec r.data } hc hh h0 hrest)

/-- The byte marked `cmd_last` ends the line. -/
theorem clockEdge_last_byte (q : Pins) (s : State) (hr : q.rst = false) (hh : s.held = false) (hc : s.ctl = .idle)
    (h0 : s.storeWait = 0) (hv : q.valid = true) (hlast : q.last = true) :
    clockEdge q s = applyLine (scanEnd s.cfg (scanBytes s.cfg s.dec [q.data])) { s with dec := scanStart } := by
  rw [clockEdge_idle q s hr hh hc h0, if_pos hv, takeByte, if_pos hlast]
  rfl

/-- Settles O55: at the last byte the streaming decoder has read the whole line, and its command is that of `Decode`. -/
theorem portBytesFormALine : Obligations.PortBytesFormALine := by
  intro s ps q ⟨hc, hdec, hh⟩ h0 hps hr hv hlast
  have hdone : { s with dec := scanStart } = s := by rw [← hdec]
  rw [clockRun_concat, clockRun_bytes ps s hc hh h0 hps, clockEdge_last_byte (hr := hr) (hv := hv) (hlast := hlast),
    hdone, hdec, ← streamingDecoderEqualsDecode, scanBytes_append]
  exacts [hh, hc, h0]

/-- While a store command is being applied the edges only count its cycles (log 12). -/
theorem clockRun_storeWait (qs : List Pins) (s : State) (hr : ∀ q ∈ qs, q.rst = false) (hh : s.held = false)
    (hc : s.ctl = .idle) (hle : qs.length ≤ s.storeWait) :
    clockRun qs s = { s with storeWait := s.storeWait - qs.length } := by
  refine clockRun_counts (fun j => { s with storeWait := s.storeWait - j }) s.storeWait (fun j hj q hq => ?_) qs hr hle
  exact clockEdge_storeWait q { s with storeWait := s.storeWait - j } hq hh hc (Nat.sub_pos_of_lt hj)

/-- Settles O57: the command's effect is there at once, and its cycles are then counted down to none. -/
theorem storeCommandHoldsReadyLow : Obligations.StoreCommandHoldsReadyLow := by
  intro s i ps ⟨hc, _, hh⟩ hi hlen hr
  obtain ⟨-, -, hheld, -⟩ := beginCmd_frame i s
  have hrun : ∀ qs : List Pins, (∀ q ∈ qs, q.rst = false) → qs.length ≤ storeCycles s.cfg →
      clockRun qs (applyLine i s) = { beginCmd i s with storeWait := storeCycles s.cfg - qs.length } := by
    intro qs hqs hle
    rw [applyLine, if_pos hi]
    exact clockRun_storeWait qs _ hqs (hheld.trans hh) ((beginCmd_ctl_of_isStoreCmd i s hi).trans hc) hle
  refine ⟨?_, fun k hk => ?_⟩
  · rw [hrun ps hr hlen.le, hlen, Nat.sub_self]
  · have htake : (ps.take k).length = k := List.length_take_of_le hk.le
    have hwait : storeCycles s.cfg - k ≠ 0 := by omega
    rw [hrun (ps.take k) (fun q hq => hr q (List.mem_of_mem_take hq)) (by omega), htake]
    simp [cmdReady, hwait]

end Sys2Proof.Machine

/-! PROOFS. Exceptions (60_exceptions.md): there is no fault and every step completes (R220), and a line that is dropped
changes nothing but that it is consumed (R221 to R223, R225). -/

namespace Sys2Proof.Machine

/-! ### Every step completes -/

/-- Only a line taken by an idle block runs a command; every other step is a function of the state. -/
theorem step_completes (s : State) : ∃ t, step s = .next t := by
  cases hi : s.input with
  | nil => exact ⟨_, step_nothing s hi⟩
  | cons x rest =>
    cases x with
    | edge q => exact ⟨_, step_edge s q rest hi⟩
    | line line =>
      by_cases hc : s.ctl = .idle
      · cases hh : s.held with
        | true => exact ⟨_, step_line_held s line rest hi hc hh⟩
        | false =>
          rw [step_line_idle s line rest hi hc hh]
          exact exec_completes _ _
      · exact ⟨_, step_line_busy s line rest hi hc⟩

/-- Settles O7: a fault has no constructor, and every step and every command, so also a line's, completes. -/
theorem everyStepYieldsANextState : Obligations.EveryStepYieldsANextState :=
  ⟨nofun, step_completes, fun s line => exec_completes (decode s.cfg line) s, exec_completes⟩

/-! ### A dropped line -/

/-- Only the three NOP rows have an error class, and each of them answers the state it was given (R222, R223). -/
theorem exec_of_errClass {i : Instr} (h : errClass i ≠ none) (s : State) : exec i s = .next s := by
  cases i with
  | setPixel i c => exact absurd rfl h
  | setTarget i c => exact absurd rfl h
  | setSegTarget g c => exact absurd rfl h
  | draw => exact absurd rfl h
  | clear => exact absurd rfl h
  | nopBelow => rfl
  | nopBeyond => rfl
  | nopMalformed => rfl

/-- A block that waits, with no store command being applied, loses nothing but the line when it takes one. -/
theorem State.waiting.lineTaken_eq {s : State} (hw : s.waiting) (h0 : s.storeWait = 0) (rest : List Input) :
    lineTaken rest s = { s with input := rest } := by
  obtain ⟨-, hdec, -⟩ := hw
  rw [lineTaken, ← hdec, ← h0]

/-- Settles O8: the line is taken without further change, and its command answers the state it was given. -/
theorem droppedLineLeavesNoTrace : Obligations.DroppedLineLeavesNoTrace := by
  intro s line rest hw h0 herr
  have hpending : State.waiting { s with input := .line line :: rest } := hw
  rw [step_line_waiting _ line rest rfl hpending, hpending.lineTaken_eq h0]
  exact exec_of_errClass herr _

end Sys2Proof.Machine

/-! PROOFS. Reset and hazards (70_reset_and_hazards.md): an edge with `rst = 1` overrides everything, of the running sink
instruction at most a shortened one stays, and the first edge with `rst = 0` samples the configuration (R251 to R253). -/

namespace Sys2Proof.Machine

/-! ### The instruction a reset cuts -/

@[simp] theorem sinkLevel_sinkCut (d : Nat) (x : Sink) : sinkLevel (sinkCut d x) = sinkLevel x := by cases x <;> rfl

/-- What a reset leaves of the running instruction, if there is one: as much of it as was on the line (R252). -/
theorem cutInstr_eq_toList (s : State) :
    cutInstr s = ((curInstr s).map fun y =>
      sinkCut (min (sinkDur y) ((curCycles s + 1 - s.t) * s.cfg.clkPeriodNs)) y).toList := by
  unfold cutInstr
  cases curInstr s <;> rfl

theorem length_cutInstr_le_one (s : State) : (cutInstr s).length ≤ 1 := by
  rw [cutInstr_eq_toList]
  exact Option.length_toList_le

/-- A cut instruction has the level of the running one and is no longer than it (R252; log 13). -/
theorem exists_curInstr_of_mem_cutInstr (s : State) (x : Sink) (hx : x ∈ cutInstr s) :
    ∃ y, curInstr s = some y ∧ sinkLevel x = sinkLevel y ∧ sinkDur x ≤ sinkDur y := by
  rw [cutInstr_eq_toList, Option.mem_toList, Option.map_eq_some_iff] at hx
  obtain ⟨y, hy, rfl⟩ := hx
  refine ⟨y, hy, sinkLevel_sinkCut _ y, ?_⟩
  rw [sinkDur_sinkCut]
  exact Nat.min_le_left _ _

/-! ### An edge under reset and the edge of its release -/

/-- The reset edge keeps the trace so far as the past trace (R252; log 3). -/
theorem resetEdge_eq_told (s : State) :
    resetEdge s = { State.init s.cfg with held := true, wPast := s.told ++ cutInstr s, input := s.input } := by
  rw [resetEdge, State.told, List.append_assoc]

/-- While `rst = 1` no byte is taken (R251). -/
theorem cmdReady_of_rst (s : State) : cmdReady true s = false := rfl

/-- With no byte offered, the first edge with `rst = 0` is the release alone: the released block is idle and no store
command is being applied (R251; log 8). -/
theorem clockEdge_release (q : Pins) (s : State) (hr : q.rst = false) (hv : q.valid = false) (hh : s.held = true) :
    clockEdge q s = release q.cfg s := by
  have hidle : clockEdge q (release q.cfg s) = release q.cfg s := by
    rw [clockEdge_idle q (release q.cfg s) hr rfl rfl rfl, hv]
    rfl
  rw [clockEdge_held q s hr hh, ← clockEdge_running q (release q.cfg s) hr rfl, hidle]

/-- Settles O3: an edge with `rst = 1` is the reset edge, and the first one after it the release with the offered
configuration. -/
theorem rstEdgeOverridesEverything : Obligations.RstEdgeOverridesEverything := by
  refine ⟨fun q s hr => ?_, fun q s c hr hv hcfg hh => ?_⟩
  · rw [clockEdge_rst q s hr, hr]
    exact ⟨resetEdge_eq_told s, cmdReady_of_rst s, length_cutInstr_le_one s, exists_curInstr_of_mem_cutInstr s⟩
  · rw [clockEdge_release q s hr hv hh, hcfg]
    rfl

end Sys2Proof.Machine

/-! PROOFS. The examples of the opcode table (30_encoding.md section 9): most are canonical lines (R108), read back by
`Decode` of the encoding; the others are four literals, classified by their values (R97). -/

namespace Sys2Proof

/-- A line that is the canonical spelling of a well-formed command decodes to it (R108). -/
theorem decode_of_encode_eq {cfg : Cfg} {i : Instr} {line : List Byte} (hline : encode cfg i = line)
    (hwf : i.wf cfg = true) : decode cfg line = i := by
  rw [← hline, decodeOfEncodeIsIdentity cfg i hwf]

/-- A 32-bit word of the table is classified by its value as a signed index (R113; log 14). -/
theorem decodeTableWord_32 (w : Nat) :
    decodeTableWord 32 w = some (classify Cfg.reference (BitVec.ofNat 32 w).toInt (pack 0 0 0)) := by
  rw [decodeTableWord, tableLine, if_pos rfl, decode_lineText]

/-- `5 0xff 0x00 0x00`: hexadecimal channels are read by their digits (R87). -/
theorem decode_hexadecimalExample :
    decode Cfg.reference [0x35#8, 0x20#8, 0x30#8, 0x78#8, 0x66#8, 0x66#8, 0x20#8, 0x30#8, 0x78#8, 0x30#8, 0x30#8,
      0x20#8, 0x30#8, 0x78#8, 0x30#8, 0x30#8] = .setPixel 5 0x00FF00 := by
  have hread := hexadecimalChannelReadsItsDigits.2 Cfg.reference 5 [(false, 15), (false, 15)]
    [(false, 0), (false, 0)] [(false, 0), (false, 0)] (by decide) (by decide) (by decide)
  have hrange := hread.trans (if_pos (by decide))
  exact hrange.trans (classify_pixel Cfg.reference _ (by decide) (by decide))

/-- `88 1 2 3`: the first index beyond the segment window of the reference configuration (R97). -/
theorem decode_beyondExample :
    decode Cfg.reference [0x38#8, 0x38#8, 0x20#8, 0x31#8, 0x20#8, 0x32#8, 0x20#8, 0x33#8] = .nopBeyond :=
  calc decode Cfg.reference [0x38#8, 0x38#8, 0x20#8, 0x31#8, 0x20#8, 0x32#8, 0x20#8, 0x33#8]
    _ = decode Cfg.reference (lineText 88 1 2 3) := congrArg _ (by decide)
    _ = classify Cfg.reference 88 (pack 1 2 3) := decode_lineText Cfg.reference 88 1 2 3
    _ = .nopBeyond := classify_beyond Cfg.reference _ (by decide)

/-- Settles O9: seven rows are canonical lines, the hexadecimal line and the index 88 are classified by their values,
and the two words are the signed indices -1 and -2. -/
theorem tableExamplesDecode : Obligations.TableExamplesDecode := by
  refine ⟨?setPixel, decode_hexadecimalExample, ?setTarget, ?setSegTarget, ?draw, ?clear, ?nopBelow,
    decode_beyondExample, ?nopMalformed, ?drawWord, ?clearWord⟩
  case drawWord => exact (decodeTableWord_32 _).trans (congrArg some (classify_draw Cfg.reference _))
  case clearWord => exact (decodeTableWord_32 _).trans (congrArg some (classify_clear Cfg.reference _))
  all_goals exact decode_of_encode_eq (by decide) (by decide)

end Sys2Proof
